-- ==== Sys2Proof/Word.lean ====
section
/-! DEFINITION. The plain word and index types of the ZM-2408 model, and the two list-backed helpers over
fixed-length tables. -/

namespace Sys2Proof

/-- A byte of a packet (file 11, section 11.1). -/
abbrev Byte := BitVec 8
/-- A 32-bit management value or counter (R151, R156). -/
abbrev Word32 := BitVec 32
/-- One 8-byte word of a line (file 00, section 4, "Lines"). -/
abbrev Word64 := BitVec 64
/-- A 40-bit host address (R1). -/
abbrev HostAddr := BitVec 40
/-- A channel number, 0 or 1. -/
abbrev Chan := Fin 2
/-- A bank number within a channel, 0 to 7. -/
abbrev BankIx := Fin 8
/-- A stream number, 0 to 3. -/
abbrev StreamIx := Fin 4
/-- A tag, 0 to 63 within its stream. -/
abbrev TagIx := Fin 64
/-- A completion slot number, 0 to 47 (R137). -/
abbrev SlotIx := Fin 48
/-- A word number within a line, 0 to 7. -/
abbrev WordIx := Fin 8
/-- An order number, 0 to 65535, wrapping (R8). -/
abbrev OrderNo := BitVec 16
/-- A map epoch, 0 to 15, wrapping (R35). -/
abbrev Epoch := BitVec 4
/-- A link sequence number, 0 to 255, wrapping (file 10). -/
abbrev SeqNo := BitVec 8
/-- The eight words of a line, word 0 at the lowest address. -/
abbrev Line := Vector Word64 8

/-- Apply a function to every element of a fixed-length table. -/
def mapTable {α β : Type} {n : Nat} (f : α → β) (v : Vector α n) : Vector β n :=
  ⟨⟨v.toArray.toList.map f⟩, by simp⟩

/-- The elements of a fixed-length table, lowest index first. -/
def tableList {α : Type} {n : Nat} (v : Vector α n) : List α := v.toArray.toList

/-- The eight bank numbers, lowest first. -/
def bankIxs : List BankIx := [0, 1, 2, 3, 4, 5, 6, 7]
/-- The eight word numbers of a line, lowest first. -/
def wordIxs : List WordIx := [0, 1, 2, 3, 4, 5, 6, 7]
/-- The four stream numbers, lowest first. -/
def streamIxs : List StreamIx := [0, 1, 2, 3]
/-- The two channel numbers. -/
def chanIxs : List Chan := [0, 1]
/-- The forty-eight completion slot numbers, lowest first. -/
def slotIxs : List SlotIx := List.finRange 48

end Sys2Proof
end

