-- ==== Sys2Proof/Syntax.lean ====
section
/-! DEFINITION. The commands of the ZM-2408: one constructor of `Instr` per row of spec/opcode_table.json, with the
row's operands. A row that acts on the head of the ingress queue takes nothing: the head packet holds its operands.
A row of a channel names the channel; a row of one bank's timer names the bank too. -/

namespace Sys2Proof

/-- A sequenced packet of the host as the Link Port hands it to the Intake (file 11, sections 11.1 to 11.3). Its
length field is the length of `payload`; its sequence number is used at the link and stands beside it in the arrival. -/
structure Packet where
  /-- The kind code, byte 0 of the header. -/
  kind : Byte
  /-- The stream, bits 7 to 6 of byte 1. -/
  stream : StreamIx
  /-- The tag, bits 5 to 0 of byte 1. -/
  tag : TagIx
  /-- The payload bytes, byte 4 of the packet first. -/
  payload : List Byte
deriving DecidableEq, Repr

/-- What a read finds changed in one stored word of its line since it was last written (R139): the data the cells
hold now, and how many bits of the check code now differ from the code as it was written. -/
structure CellChange where
  word : WordIx
  data : Word64
  codeFlips : Nat
deriving DecidableEq, Repr

/-- The steps of the part, each whole and indivisible: one constructor per row of spec/opcode_table.json. -/
inductive Instr
  /-- COLD_RESET (R19): the cold-reset line is asserted. -/
  | coldReset
  /-- HELLO (R168): a good HELLO arrives; `payload` is its payload (R182). -/
  | hello (payload : List Byte)
  /-- RESET_LINK (R177): a good RESET_LINK arrives. -/
  | resetLink (payload : List Byte)
  /-- ACK (R174): a good ACK arrives; byte 0 of the payload is its number. -/
  | ack (payload : List Byte)
  /-- NAK (R174): a good NAK arrives; byte 0 of the payload is its number. -/
  | nak (payload : List Byte)
  /-- CREDIT (R172): a good CREDIT arrives; byte 0 of the payload is its count. -/
  | credit (payload : List Byte)
  /-- PACKET_CRC_FAILURE (R170): a packet that fails its CRC check arrives. -/
  | packetCrcFailure
  /-- SEQUENCED_PACKET_ARRIVAL (R169): a good sequenced packet with sequence number `seq` arrives. -/
  | sequencedPacketArrival (seq : SeqNo) (packet : Packet)
  /-- UNKNOWN_KIND (R180): the malformed or unknown-kind packet at the head is taken. -/
  | unknownKind
  /-- READ (R29): the Map Unit tries the READ at the head. -/
  | read
  /-- WRITE (R29): the Map Unit tries the WRITE at the head. -/
  | write
  /-- FLUSH (R14): the FLUSH at the head is taken. -/
  | flush
  /-- MGMT_READ (R151): the MGMT_READ at the head is taken. -/
  | mgmtRead
  /-- MGMT_WRITE (R152): the MGMT_WRITE at the head, of a field with no write behaviour of its own, is taken. -/
  | mgmtWrite
  /-- ORDER_MODE_WRITE (R4). -/
  | orderModeWrite
  /-- MANAGER_WRITE (R4). -/
  | managerWrite
  /-- NOTICE_TARGET_WRITE (R4). -/
  | noticeTargetWrite
  /-- MAP_TABLE_WRITE (R23). -/
  | mapTableWrite
  /-- CHANNEL_SETTINGS_WRITE (R122). -/
  | channelSettingsWrite
  /-- ROWS_PER_BANK_WRITE (R123). -/
  | rowsPerBankWrite
  /-- URGENCY_THRESHOLD_WRITE (R94). -/
  | urgencyThresholdWrite
  /-- TRIM_SETTINGS_WRITE (R104). -/
  | trimSettingsWrite
  /-- NOTICE_ENABLE_WRITE (R162). -/
  | noticeEnableWrite
  /-- TEMPERATURE_REPORT (R87). -/
  | temperatureReport
  /-- INIT (R119). -/
  | init
  /-- HOLD (R124). -/
  | hold
  /-- RESUME (R126). -/
  | resume
  /-- RETAIN (R129). -/
  | retain
  /-- WAKE (R132). -/
  | wake
  /-- TRIM_LONG (R112). -/
  | trimLong
  /-- COMMIT_MAP (R35). -/
  | commitMap
  /-- COPY_LIVE_TO_SHADOW (R31). -/
  | copyLiveToShadow
  /-- CLEAR_FAULT (R165). -/
  | clearFault
  /-- CLEAR_COUNTERS (R156). -/
  | clearCounters
  /-- FUNCTION_RESET (R159). -/
  | functionReset
  /-- OPEN (R49): the selector of channel `c` issues an open. -/
  | openRow (c : Chan)
  /-- CLOSE (R53): the selector of channel `c` issues a close. -/
  | closeBank (c : Chan)
  /-- READ_COLUMN_COMMAND (R68); `changes` is what the read finds changed in the stored line. -/
  | readColumnCommand (c : Chan) (changes : List CellChange)
  /-- WRITE_COLUMN_COMMAND (R69). -/
  | writeColumnCommand (c : Chan)
  /-- REFRESH (R95). -/
  | refresh (c : Chan)
  /-- SHORT_TRIM (R108). -/
  | shortTrim (c : Chan)
  /-- LONG_TRIM (R111). -/
  | longTrim (c : Chan)
  /-- SETTINGS_WRITE_STEP (R120). -/
  | settingsWriteStep (c : Chan)
  /-- RETENTION_ENTRY_STEP (R130). -/
  | retentionEntryStep (c : Chan)
  /-- OPEN_TO_ACCESS_EXPIRY (R50). -/
  | openToAccessExpiry (c : Chan) (b : BankIx)
  /-- CLOSE_TIME_EXPIRY (R54). -/
  | closeTimeExpiry (c : Chan) (b : BankIx)
  /-- OPEN_MIN_EXPIRY (R53). -/
  | openMinExpiry (c : Chan) (b : BankIx)
  /-- OPEN_CYCLE_EXPIRY (R49). -/
  | openCycleExpiry (c : Chan) (b : BankIx)
  /-- WRITE_RECOVERY_EXPIRY (R53). -/
  | writeRecoveryExpiry (c : Chan) (b : BankIx)
  /-- ROW_HOLD_EXPIRY (R55). -/
  | rowHoldExpiry (c : Chan) (b : BankIx)
  /-- WRITE_BURST_END (R69). -/
  | writeBurstEnd (c : Chan)
  /-- READ_COMPLETION (R68): the data of the oldest issued read of channel `c` arrives. -/
  | readCompletion (c : Chan)
  /-- READ_BURST_END (R67). -/
  | readBurstEnd (c : Chan)
  /-- COLUMN_SPACING_EXPIRY (R65). -/
  | columnSpacingExpiry (c : Chan)
  /-- WRITE_TO_READ_EXPIRY (R66). -/
  | writeToReadExpiry (c : Chan)
  /-- READ_TO_WRITE_EXPIRY (R67). -/
  | readToWriteExpiry (c : Chan)
  /-- OPEN_SPACING_EXPIRY (R70). -/
  | openSpacingExpiry (c : Chan)
  /-- WINDOW_ENTRY_EXPIRY (R71). -/
  | windowEntryExpiry (c : Chan)
  /-- REFRESH_INTERVAL_EXPIRY (R92). -/
  | refreshIntervalExpiry (c : Chan)
  /-- REFRESH_COMPLETION (R97). -/
  | refreshCompletion (c : Chan)
  /-- TRIM_TIMER_EXPIRY (R107). -/
  | trimTimerExpiry (c : Chan)
  /-- GRACE_TIMER_EXPIRY (R110). -/
  | graceTimerExpiry (c : Chan)
  /-- SHORT_TRIM_COMPLETION (R109). -/
  | shortTrimCompletion (c : Chan)
  /-- LONG_TRIM_COMPLETION (R111). -/
  | longTrimCompletion (c : Chan)
  /-- STALE_TIMER_EXPIRY (R89). -/
  | staleTimerExpiry
  /-- IDLE_TIMER_EXPIRY (R127). -/
  | idleTimerExpiry (c : Chan)
  /-- DOZE_EXIT_EXPIRY (R128). -/
  | dozeExitExpiry (c : Chan)
  /-- POWERUP_WAIT_EXPIRY (R120). -/
  | powerupWaitExpiry (c : Chan)
  /-- SETTINGS_WRITE_COMPLETION (R120). -/
  | settingsWriteCompletion (c : Chan)
  /-- RETAIN_EXIT_SHORT_EXPIRY (R133). -/
  | retainExitShortExpiry (c : Chan)
  /-- RETAIN_EXIT_LONG_EXPIRY (R133). -/
  | retainExitLongExpiry (c : Chan)
  /-- HELLO_SEND (R168). -/
  | helloSend
  /-- NAK_SEND (R173). -/
  | nakSend
  /-- ACK_SEND (R169). -/
  | ackSend
  /-- CREDIT_SEND (R171). -/
  | creditSend
  /-- RETRANSMISSION (R175). -/
  | retransmission
  /-- RESPONSE_SEND (R146). -/
  | responseSend
  /-- NOTICE_SEND (R161). -/
  | noticeSend
  /-- REPLAY_TIMER_EXPIRY (R175). -/
  | replayTimerExpiry
  /-- UNKNOWN_COMMAND_CODE (R157). -/
  | unknownCommandCode
deriving DecidableEq, Repr

end Sys2Proof
end

