-- ==== Sys2Proof/WellFormed.lean ====
section
/-! DEFINITION. Which commands are well formed: the checks that the types of Syntax.lean do not make. -/

namespace Sys2Proof

/-- The five link control kind codes of file 11, section 11.2; every other kind code is that of a sequenced packet. -/
def Packet.linkControlKind (k : Byte) : Bool :=
  k == 0x20#8 || k == 0x21#8 || k == 0x22#8 || k == 0x23#8 || k == 0x24#8

/-- A payload's length fits the 8-bit length field of the header (file 11, section 11.1). -/
def payloadFits (payload : List Byte) : Bool := payload.length ≤ 255

/-- A sequenced packet has no link control kind, and a payload whose length its header can say. -/
def Packet.wellFormed (p : Packet) : Bool :=
  !Packet.linkControlKind p.kind && payloadFits p.payload

/-- No word of the line is named twice among the changes a read finds. -/
def CellChange.listWellFormed (cs : List CellChange) : Bool :=
  decide (cs.map (·.word)).Nodup

/-- The check of every command: its packet, payload or list of changes is well formed. -/
def Instr.wellFormed : Instr → Bool
  | .hello p | .resetLink p | .ack p | .nak p | .credit p => payloadFits p
  | .sequencedPacketArrival _ p => p.wellFormed
  | .readColumnCommand _ cs => CellChange.listWellFormed cs
  | .coldReset | .packetCrcFailure | .unknownKind | .read | .write | .flush | .mgmtRead | .mgmtWrite
  | .orderModeWrite | .managerWrite | .noticeTargetWrite | .mapTableWrite | .channelSettingsWrite
  | .rowsPerBankWrite | .urgencyThresholdWrite | .trimSettingsWrite | .noticeEnableWrite
  | .temperatureReport | .init | .hold | .resume | .retain | .wake | .trimLong | .commitMap
  | .copyLiveToShadow | .clearFault | .clearCounters | .functionReset | .openRow _ | .closeBank _
  | .writeColumnCommand _ | .refresh _ | .shortTrim _ | .longTrim _ | .settingsWriteStep _
  | .retentionEntryStep _ | .openToAccessExpiry _ _ | .closeTimeExpiry _ _ | .openMinExpiry _ _
  | .openCycleExpiry _ _ | .writeRecoveryExpiry _ _ | .rowHoldExpiry _ _ | .writeBurstEnd _
  | .readCompletion _ | .readBurstEnd _ | .columnSpacingExpiry _ | .writeToReadExpiry _
  | .readToWriteExpiry _ | .openSpacingExpiry _ | .windowEntryExpiry _ | .refreshIntervalExpiry _
  | .refreshCompletion _ | .trimTimerExpiry _ | .graceTimerExpiry _ | .shortTrimCompletion _
  | .longTrimCompletion _ | .staleTimerExpiry | .idleTimerExpiry _ | .dozeExitExpiry _
  | .powerupWaitExpiry _ | .settingsWriteCompletion _ | .retainExitShortExpiry _
  | .retainExitLongExpiry _ | .helloSend | .nakSend | .ackSend | .creditSend | .retransmission
  | .responseSend | .noticeSend | .replayTimerExpiry | .unknownCommandCode => true

end Sys2Proof
end

