-- ==== Sys2Proof/Config.lean ====
section
/-! DEFINITION. What the ZM-2408 fixes once and for all (capacities, the length of a ms and of a µs in time
units), and the free values: what the spec leaves undefined and no proof may see. -/

namespace Sys2Proof.Config

/-- Time units of 0.25 ns in one millisecond (file 00, section 4, "Time"). -/
def unitsPerMs : Nat := 4000000
/-- Time units of 0.25 ns in one microsecond. -/
def unitsPerUs : Nat := 4000
/-- Slots of the ingress queue (R5, R153). -/
def ingressSlots : Nat := 64
/-- Entries of a channel's pool (R43, R153). -/
def poolEntries : Nat := 32
/-- Packets of the replay buffer (R173, R153). -/
def replayEntries : Nat := 32
/-- Records of a stream's flush list (R14). -/
def flushRecords : Nat := 4
/-- The bypass count at which an entry is starved (R76). -/
def starveAt : Nat := 8
/-- Responses a pending notice may wait behind (R144). -/
def noticeWaitMax : Nat := 8
/-- Replays in a row without an acknowledgment before a replay failure (R176). -/
def replayAttempts : Nat := 4
/-- The replay timer's duration, 10 µs, in time units (file 10, the Link Port's state table). -/
def replayTime : Nat := 10 * unitsPerUs
/-- Lines in one row of one bank (R26). -/
def linesPerRow : Nat := 128

/-- FREE VALUE: the data of a DRAM word nothing has written since the contents of channel `c`'s DRAM became
undefined for the `gen`-th time, at word address `k` (R61, R116, R120). -/
opaque dramData : (c gen k : Nat) → Word64
/-- FREE VALUE: the word that the stored check code of such a DRAM word agrees with (R140: check codes included). -/
opaque dramCodeOf : (c gen k : Nat) → Word64
/-- FREE VALUE: how many bits of such a DRAM word's stored check code differ from a code of `dramCodeOf` (R140). -/
opaque dramCodeFlips : (c gen k : Nat) → Nat
end Sys2Proof.Config
end

