-- ==== Sys2Proof/Machine/State.lean ====
section
/-! DEFINITION. The state of the ZM-2408 as plain data, block by block, and the state after cold reset. -/

namespace Sys2Proof.Machine

/-- Why the machine stops with a fault. The part has no fault that stops it: its faults are records (R163). -/
inductive Fault
  /-- Raised by no command: the spec gives the part no stop. It keeps the type inhabited. Safe. -/
  | noneRaised
deriving DecidableEq, Repr

/-- Why a command has no meaning. -/
inductive Refusal
  /-- Raised by the dispatcher alone, for a row of the table that has no meaning yet. Safe: the machine stops. -/
  | notModelled (mnemonic : String)
deriving DecidableEq, Repr

/-- A timer (file 00, section 4, "Time"): stopped, running since `started` to expire at `expires`, or expired. -/
inductive Timer
  | stopped
  | running (started expires : Nat)
  | expired
deriving DecidableEq, Repr

/-! ## Link Port (file 10) -/

/-- The link state, with the codes of R179 in this order. -/
inductive LinkState
  | down | training | up
deriving DecidableEq, Repr

/-- ERROR_RESP codes (file 11, section 11.3). -/
inductive ErrCode
  | malformed | unmapped | denied | readOnly | notReady | channelHeld | flushLimit
deriving DecidableEq, Repr

/-- MGMT_RESP codes (file 09, section 9.2; file 11, section 11.3). -/
inductive MgmtCode
  | ok | busy | badIndex | readOnlyField | badValue | notHeld | badState | badTiming
  | badLayout | overlap | outOfRows | alias_ | geometryConflict | cancelled
deriving DecidableEq, Repr

/-- Notice kinds in the order of their numbers 0 to 7 (file 09, section 9.7). -/
inductive NoticeKind
  | tempOver | tempStale | refreshOverdue | mapDrained | overrun | tagReuse | poisoned | replayFail
deriving DecidableEq, Repr

/-- What a sequenced packet sent by the part carries, beside its sequence number (file 11, sections 11.2, 11.3). -/
inductive OutPacket
  | readData (stream : StreamIx) (tag : TagIx) (data : Line) (poisoned : BitVec 8)
  | writeDone (stream : StreamIx) (tag : TagIx)
  | flushDone (stream : StreamIx) (tag : TagIx)
  | mgmtResp (stream : StreamIx) (tag : TagIx) (code : MgmtCode) (value : Option Word32)
  | errorResp (stream : StreamIx) (tag : TagIx) (code : ErrCode)
  | notice (stream : StreamIx) (kind : NoticeKind) (chan : Option Chan) (detail : Word32)
deriving DecidableEq, Repr

/-- A packet of the replay buffer with the sequence number it was sent with (R173). -/
structure SentPacket where
  seq : SeqNo
  body : OutPacket
deriving DecidableEq, Repr

/-- A packet the part puts on the link. -/
inductive TxPacket
  | hello
  | nak (n : SeqNo)
  | ack (n : SeqNo)
  | credit (count : Nat)
  | sequenced (p : SentPacket)
deriving DecidableEq, Repr

/-- The link counters of R179, 32 bits each. -/
structure LinkCounters where
  crcErrors : Word32
  naksSent : Word32
  duplicates : Word32
  outOfSequence : Word32
  replays : Word32
  linkResets : Word32
deriving DecidableEq, Repr

/-- The state of the Link Port (file 10, the table before section 10.1). -/
structure Link where
  state : LinkState
  expected : SeqNo
  nakOutstanding : Bool
  ackPending : Option SeqNo
  nakPending : Option SeqNo
  nextSeq : SeqNo
  /-- Sent sequenced packets not yet acknowledged, oldest first. -/
  replay : List SentPacket
  /-- The sequence number of the next packet to be retransmitted, if any. -/
  replayPoint : Option SeqNo
  replayTimer : Timer
  attempts : Nat
  granted : Nat
  owed : Nat
  respCredits : Nat
  helloPending : Bool
  counters : LinkCounters
  /-- The model's own observable: the packet most recently put on the link (log entry 10). -/
  lastTx : Option TxPacket
deriving DecidableEq, Repr

/-! ## Intake (file 01) -/

/-- The order modes of a stream (R2). -/
inductive OrderMode
  | relaxed | strict
deriving DecidableEq, Repr

/-- A record of a stream's flush list (file 01, section 1.5). -/
structure FlushRecord where
  tag : TagIx
  order : OrderNo
  count : Nat
deriving DecidableEq, Repr

/-- What the Intake holds per stream: its stream-table entry, order-number counter and flush list. -/
structure StreamEntry where
  orderMode : OrderMode
  manager : Bool
  noticeTarget : Bool
  nextOrder : OrderNo
  flushes : List FlushRecord
deriving DecidableEq, Repr

/-- A packet of the ingress queue with the order number it was given (R5, R8). -/
structure QueuedPacket where
  packet : Packet
  order : OrderNo
deriving DecidableEq, Repr

/-- The state of the Intake. -/
structure Intake where
  /-- The ingress queue, head first. -/
  queue : List QueuedPacket
  /-- The tag table: the outstanding (stream, tag) pairs, each at most once (R9). -/
  tags : List (StreamIx × TagIx)
  streams : Vector StreamEntry 4
deriving DecidableEq, Repr

/-! ## Map Unit (file 02) -/

/-- A region entry (file 02, section 2.1). -/
structure Region where
  valid : Bool
  base : HostAddr
  limit : HostAddr
  layout : Nat
  rowBase : Nat
  streams : BitVec 4
  writable : Bool
deriving DecidableEq, Repr

/-- The channel modes of a layout (file 02, section 2.1). -/
inductive ChannelMode
  | ch0 | ch1 | split
deriving DecidableEq, Repr

/-- A layout entry (file 02, section 2.1). -/
structure Layout where
  mode : ChannelMode
  granuleK : Nat
deriving DecidableEq, Repr

/-- The state of the Map Unit. -/
structure MapUnit where
  shadowRegions : Vector Region 16
  liveRegions : Vector Region 16
  shadowLayouts : Vector Layout 4
  liveLayouts : Vector Layout 4
  epoch : Epoch
  /-- Outstanding count of the current epoch. -/
  current : Nat
  /-- Outstanding count of the epoch before it. -/
  previous : Nat
deriving DecidableEq, Repr

/-! ## Channel Controller (files 03 to 07) -/

/-- What a pool entry asks for, with the fields its kind alone has (file 03, section 3.1). -/
inductive AccessKind
  | read (slot : SlotIx)
  | write (data : Line) (enable : BitVec 8)
deriving DecidableEq, Repr

/-- A pool entry (file 03, section 3.1). -/
structure PoolEntry where
  stream : StreamIx
  tag : TagIx
  order : OrderNo
  epoch : Epoch
  kind : AccessKind
  bank : BankIx
  row : Nat
  col : Nat
  bypass : Nat
  starved : Bool
deriving DecidableEq, Repr

/-- The state of a bank with the row it has; a CLOSED bank has none (file 03, section 3.2). -/
inductive BankState
  | closed
  | opening (row : Nat)
  | opened (row : Nat)
  | closing (row : Nat)
deriving DecidableEq, Repr

/-- A bank record (file 03, section 3.2). -/
structure Bank where
  state : BankState
  transition : Timer
  openMin : Timer
  openCycle : Timer
  writeBurst : Bool
  writeRecovery : Timer
  rowHold : Timer
  holdExpired : Bool
  /-- Whether the bank has received a column command since its last open (R81). -/
  columnSinceOpen : Bool
deriving DecidableEq, Repr

/-- A DRAM word as stored (R139): its data, the word its check code was made from, and how many bits of the code have
changed since it was made. -/
structure StoredWord where
  data : Word64
  codeOf : Word64
  codeFlips : Nat
deriving DecidableEq, Repr

/-- An issued read whose data has not arrived (R68): its completion slot, the eight stored words it read, and the
expiry of its return timer. -/
structure IssuedRead where
  slot : SlotIx
  words : Vector StoredWord 8
  expires : Nat
deriving DecidableEq, Repr

/-- The write burst on a channel's data bus (R69): its bank, the request it carries, its epoch and discard flag, and
its end. -/
structure WriteBurst where
  bank : BankIx
  stream : StreamIx
  tag : TagIx
  order : OrderNo
  epoch : Epoch
  discard : Bool
  expires : Nat
deriving DecidableEq, Repr

/-- An entry of the window list (R71): the issue time of an open and its expiry. -/
structure WindowEntry where
  issued : Nat
  expires : Nat
deriving DecidableEq, Repr

/-- The operations that occupy a channel (R64, R120). -/
inductive MaintOp
  | refresh | shortTrim | longTrim | settingsWrite
deriving DecidableEq, Repr

/-- The operation in progress on a channel and when it completes (R64). -/
structure Maint where
  op : MaintOp
  expires : Nat
deriving DecidableEq, Repr

/-- The DRAM commands and steps a channel issues (R62). -/
inductive DramCommand
  | openRow (bank : BankIx) (row : Nat)
  | closeBank (bank : BankIx)
  | readColumn (bank : BankIx) (col : Nat)
  | writeColumn (bank : BankIx) (col : Nat)
  | refresh | shortTrim | longTrim | settingsWrite
  | dozeEntry | dozeExit | retentionEntry | retentionExit
deriving DecidableEq, Repr

/-- The nine channel states in the order of their codes 0 to 8 (file 07, section 7.1). -/
inductive ChanState
  | uninit | starting | active | doze | holding | held | retainPending | retained | waking
deriving DecidableEq, Repr

/-- How far STARTING or WAKING has got (R119, R120, R132, R133). -/
inductive SeqStep
  | none | powerup | settingsWrite | longTrim | shortExit | longExit
deriving DecidableEq, Repr

/-- The channel settings, in the order of their field indexes 0 to 22 (file 07, section 7.4). -/
structure Settings where
  openToAccess : Nat
  openMin : Nat
  closeTime : Nat
  openCycle : Nat
  openSpacing : Nat
  windowTime : Nat
  burstTime : Nat
  readReturn : Nat
  writeRecovery : Nat
  writeToRead : Nat
  readToWrite : Nat
  refreshTime : Nat
  refreshInterval : Nat
  trimShort : Nat
  trimLong : Nat
  dozeExit : Nat
  retainExitShort : Nat
  retainExitLong : Nat
  settleTime : Nat
  rowHold : Nat
  idleTimeout : Nat
  powerupWait : Nat
  rowsPerBank : Nat
deriving DecidableEq, Repr

/-- The long commands in the order of their codes 1 to 6 (R155). -/
inductive LongCommand
  | init | hold | resume | retain | wake | trimLong
deriving DecidableEq, Repr

/-- A filled long-command record (file 09, section 9.5). -/
structure LongRecord where
  command : LongCommand
  stream : StreamIx
  tag : TagIx
  order : OrderNo
  answerable : Bool
deriving DecidableEq, Repr

/-- A channel's counters (R156), 32 bits each. -/
structure Counters where
  opens : Word32
  hits : Word32
  refreshes : Word32
  pullIns : Word32
  overdue : Word32
  trims : Word32
  correctedWords : Word32
  poisonedWords : Word32
  dozes : Word32
deriving DecidableEq, Repr

/-- The state of one channel. -/
structure Channel where
  /-- The pool in placement order, oldest first (R45). -/
  pool : List PoolEntry
  banks : Vector Bank 8
  columnSpacing : Timer
  writeBurst : Option WriteBurst
  /-- The end of the read burst on the bus, if any. -/
  readBurst : Option Nat
  /-- The issued reads whose data has not arrived, in issue order (R68). -/
  issued : List IssuedRead
  writeToRead : Timer
  readToWrite : Timer
  openSpacing : Timer
  /-- The window list in issue order (R71). -/
  window : List WindowEntry
  maint : Option Maint
  debt : Int
  interval : Timer
  urgent : Bool
  /-- The trim interval in ms (R103). -/
  trimInterval : Nat
  trimTimer : Timer
  shortTrimDue : Bool
  graceTimer : Timer
  /-- Whether the grace timer's expiry has begun a force condition that has not ended (R110). -/
  graceForce : Bool
  longTrimRequest : Bool
  state : ChanState
  settings : Settings
  settingsPending : Bool
  idleTimer : Timer
  dozeExit : Timer
  powerupWait : Timer
  retainExitShort : Timer
  retainExitLong : Timer
  seqStep : SeqStep
  /-- The channel's long-command record, which the Management Unit holds (R158). -/
  longCmd : Option LongRecord
  counters : Counters
  /-- The DRAM words written since the contents became undefined, by word address, addresses strictly rising. -/
  dram : List (Nat × StoredWord)
  /-- The model's own counter: how often the DRAM contents have become undefined (log entry 5). -/
  dramGen : Nat
  /-- The model's own observable: the DRAM command issued last (log entry 10). -/
  lastCommand : Option DramCommand
deriving DecidableEq, Repr

/-! ## Return Unit (file 08) -/

/-- What a completion slot records of its read at the reservation (R30). -/
structure ReadRecord where
  stream : StreamIx
  tag : TagIx
  order : OrderNo
  epoch : Epoch
  chan : Chan
  bank : BankIx
  row : Nat
deriving DecidableEq, Repr

/-- A completion slot (file 08, section 8.1). -/
inductive Slot
  | free
  | reserved (r : ReadRecord)
  | filled (r : ReadRecord) (data : Line) (poisoned : BitVec 8)
  | discard (r : ReadRecord)
deriving DecidableEq, Repr

/-- The kind of a response with the fields its kind alone has (file 08, section 8.3). -/
inductive RespBody
  | readData (epoch : Epoch) (slot : SlotIx)
  /-- `chan` is the issuing channel, whose burst the entry may still have on the bus (R149). -/
  | writeDone (epoch : Epoch) (chan : Chan)
  | flushDone
  | mgmtResp (code : MgmtCode) (value : Option Word32)
  | errorResp (code : ErrCode)
deriving DecidableEq, Repr

/-- An entry of the response queue (file 08, section 8.3). -/
structure Response where
  stream : StreamIx
  tag : TagIx
  order : OrderNo
  body : RespBody
  /-- Whether it is the MGMT_RESP of an accepted FUNCTION_RESET, whose send sets next to send to 0 (R150). -/
  ofFunctionReset : Bool
deriving DecidableEq, Repr

/-- The state of the Return Unit. -/
structure ReturnUnit where
  slots : Vector Slot 48
  /-- The response queue in readiness order, oldest first (R141). -/
  queue : List Response
  nextToSend : Vector OrderNo 4
  noticeWait : Nat
deriving DecidableEq, Repr

/-! ## Management Unit (files 05, 06 and 09) -/

/-- The temperature class in force (R88). -/
inductive Band
  | normal | hot | over
deriving DecidableEq, Repr

/-- The maintenance settings in the order of their field indexes 0 to 9 (file 11, section 11.5). -/
structure MaintSettings where
  urgencyThreshold : Nat
  trimReach : Nat
  tempSens : Nat
  voltSens : Nat
  voltDrift : Nat
  trimMinMs : Nat
  trimMaxMs : Nat
  trimGraceUs : Nat
  staleTimeoutMs : Nat
  noticeEnable : Nat
deriving DecidableEq, Repr

/-- The temperature record (file 05, section 5.1). -/
structure TempRecord where
  last : Option Int
  lastTime : Nat
  prev : Option Int
  prevTime : Nat
  band : Band
  stale : Bool
  drift : Nat
  staleTimer : Timer
deriving DecidableEq, Repr

/-- A pending notice: its pair (kind, channel) and detail (R160). -/
structure Notice where
  kind : NoticeKind
  chan : Option Chan
  detail : Word32
deriving DecidableEq, Repr

/-- A filled fault record: the first fault and the count (R163). -/
structure FaultRecord where
  kind : NoticeKind
  chan : Option Chan
  detail : Word32
  count : Nat
deriving DecidableEq, Repr

/-- The state of the Management Unit, less the long-command records. -/
structure Mgmt where
  settings : MaintSettings
  temp : TempRecord
  /-- The notice set, in the order in which its pairs are sent (R161). -/
  notices : List Notice
  fault : Option FaultRecord
deriving DecidableEq, Repr

/-! ## The whole part -/

/-- The state of the part, the time base (in time units of 0.25 ns since cold reset) and the queue of the commands
that wait. -/
structure State where
  now : Nat
  link : Link
  intake : Intake
  map : MapUnit
  chans : Vector Channel 2
  ret : ReturnUnit
  mgmt : Mgmt
  pending : List Instr
deriving DecidableEq, Repr

/-! ## Cold reset -/

/-- The Link Port after cold reset (R167). -/
def linkAtReset : Link where
  state := .down
  expected := 0
  nakOutstanding := false
  ackPending := none
  nakPending := none
  nextSeq := 0
  replay := []
  replayPoint := none
  replayTimer := .stopped
  attempts := 0
  granted := 0
  owed := 0
  respCredits := 0
  helloPending := false
  counters := ⟨0, 0, 0, 0, 0, 0⟩
  lastTx := none

/-- The stream-table entry, order number and flush list of a stream after cold reset (R19): stream 0 is the manager
and the notice target. -/
def streamAtReset (first : Bool) : StreamEntry := ⟨.relaxed, first, first, 0, []⟩

/-- The Intake after cold reset (R19). -/
def intakeAtReset : Intake where
  queue := []
  tags := []
  streams := #v[streamAtReset true, streamAtReset false, streamAtReset false, streamAtReset false]

/-- A region entry after cold reset (R22). -/
def regionAtReset : Region := ⟨false, 0, 0, 0, 0, 0, false⟩

/-- A layout entry after cold reset (R22). -/
def layoutAtReset : Layout := ⟨.ch0, 0⟩

/-- The Map Unit after cold reset (R22, R41). -/
def mapAtReset : MapUnit where
  shadowRegions := Vector.replicate 16 regionAtReset
  liveRegions := Vector.replicate 16 regionAtReset
  shadowLayouts := Vector.replicate 4 layoutAtReset
  liveLayouts := Vector.replicate 4 layoutAtReset
  epoch := 0
  current := 0
  previous := 0

/-- A bank record after cold reset (R48); `columnSinceOpen` is the model's choice (log entry 21). -/
def bankAtReset : Bank where
  state := .closed
  transition := .stopped
  openMin := .expired
  openCycle := .expired
  writeBurst := false
  writeRecovery := .expired
  rowHold := .stopped
  holdExpired := false
  columnSinceOpen := false

/-- The defaults of the channel settings (file 07, section 7.4). -/
def settingsAtReset : Settings where
  openToAccess := 56
  openMin := 144
  closeTime := 56
  openCycle := 200
  openSpacing := 24
  windowTime := 128
  burstTime := 16
  readReturn := 56
  writeRecovery := 64
  writeToRead := 32
  readToWrite := 24
  refreshTime := 720
  refreshInterval := 30400
  trimShort := 320
  trimLong := 2560
  dozeExit := 24
  retainExitShort := 760
  retainExitLong := 4400
  settleTime := 64
  rowHold := 2000
  idleTimeout := 8000
  powerupWait := 200
  rowsPerBank := 65536

/-- Counters of zero (R156). -/
def countersAtReset : Counters := ⟨0, 0, 0, 0, 0, 0, 0, 0, 0⟩

/-- A channel after cold reset (R61, R82, R91, R103, R116), its DRAM contents undefined for the `gen`-th time. -/
def channelAtReset (gen : Nat) : Channel where
  pool := []
  banks := Vector.replicate 8 bankAtReset
  columnSpacing := .expired
  writeBurst := none
  readBurst := none
  issued := []
  writeToRead := .expired
  readToWrite := .expired
  openSpacing := .expired
  window := []
  maint := none
  debt := 0
  interval := .stopped
  urgent := false
  trimInterval := 1000
  trimTimer := .stopped
  shortTrimDue := false
  graceTimer := .stopped
  graceForce := false
  longTrimRequest := false
  state := .uninit
  settings := settingsAtReset
  settingsPending := false
  idleTimer := .stopped
  dozeExit := .stopped
  powerupWait := .stopped
  retainExitShort := .stopped
  retainExitLong := .stopped
  seqStep := .none
  longCmd := none
  counters := countersAtReset
  dram := []
  dramGen := gen
  lastCommand := none

/-- The Return Unit after cold reset (R148). -/
def returnAtReset : ReturnUnit where
  slots := Vector.replicate 48 .free
  queue := []
  nextToSend := Vector.replicate 4 0
  noticeWait := 0

/-- The defaults of the maintenance settings (R104, R154). -/
def maintAtReset : MaintSettings where
  urgencyThreshold := 6
  trimReach := 500
  tempSens := 1000
  voltSens := 100
  voltDrift := 0
  trimMinMs := 16
  trimMaxMs := 1000
  trimGraceUs := 1000
  staleTimeoutMs := 1000
  noticeEnable := 255

/-- The temperature record after cold reset (R84). -/
def tempAtReset : TempRecord where
  last := none
  lastTime := 0
  prev := none
  prevTime := 0
  band := .hot
  stale := false
  drift := 0
  staleTimer := .stopped

/-- The Management Unit after cold reset (R84, R154, R162, R165). -/
def mgmtAtReset : Mgmt := ⟨maintAtReset, tempAtReset, [], none⟩

/-- The part after cold reset, with the two channels as given: every block at its cold-reset values (R19, R41, R61,
R82, R84, R91, R103, R116, R148, R154, R162, R165, R167). -/
def stateAtReset (c0 c1 : Channel) (pending : List Instr) : State where
  now := 0
  link := linkAtReset
  intake := intakeAtReset
  map := mapAtReset
  chans := #v[c0, c1]
  ret := returnAtReset
  mgmt := mgmtAtReset
  pending := pending

/-- The part right after cold reset, with no command waiting. -/
def State.reset : State := stateAtReset (channelAtReset 0) (channelAtReset 0) []

end Sys2Proof.Machine
end

