-- ==== Sys2Proof/Machine/Flags.lean ====
section
/-! DEFINITION. The computations that decide: order and sequence comparisons, saturating counters, timers, band,
drift, trim interval, settings validation, translation and footprint arithmetic. -/

namespace Sys2Proof.Machine

/-! ## Comparisons and counters -/

/-- Order number `a` is later than `b`: their difference mod 65536 is from 1 to 32767 (R8). -/
def orderLater (a b : OrderNo) : Bool := 1 ≤ (a - b).toNat && (a - b).toNat ≤ 32767

/-- Sequence number `s` is behind `expected` (R170). -/
def seqBehind (expected s : SeqNo) : Bool := 1 ≤ (expected - s).toNat && (expected - s).toNat ≤ 128

/-- Sequence number `s` is ahead of `expected` (R170). -/
def seqAhead (expected s : SeqNo) : Bool := 1 ≤ (s - expected).toNat && (s - expected).toNat ≤ 127

/-- One event on a 32-bit counter, which stops at its maximum (R156, R179). -/
def bump (c : Word32) : Word32 := if c = BitVec.allOnes 32 then c else c + 1

/-- `n` events on a 32-bit counter that stops at its maximum. -/
def bumpBy : Nat → Word32 → Word32
  | 0, c => c
  | n + 1, c => bumpBy n (bump c)

/-! ## Timers -/

/-- The timer runs. -/
def Timer.isRunning : Timer → Bool
  | .running _ _ => true
  | _ => false

/-- The timer runs and has reached its expiry. -/
def Timer.due (now : Nat) : Timer → Bool
  | .running _ e => e ≤ now
  | _ => false

/-- A timer started at `now` with duration `d`. -/
def Timer.start (now d : Nat) : Timer := .running now (now + d)

/-! ## Temperature (file 05) -/

/-- The band computed from a report (R88). -/
def bandOf (v : Int) : Band := if v < 170 then .normal else if v < 190 then .hot else .over

/-- The window limit of a band (R71). -/
def windowLimit : Band → Nat
  | .over => 2
  | _ => 4

/-- The length of a refresh interval (R92). -/
def intervalLength (b : Band) (x : Settings) : Nat :=
  match b with
  | .normal => x.refreshInterval
  | _ => x.refreshInterval / 2

/-- The drift from a report, the report before it and the time between them in whole ms (R87). -/
def driftOf (v prev : Int) (elapsedMs : Nat) : Nat :=
  (v - prev).natAbs * 50000 / (if elapsedMs = 0 then 1 else elapsedMs)

/-! ## Trim (file 06) -/

/-- A value clamped to [lo, hi]: below lo becomes lo, above hi becomes hi (R105). -/
def clamp (lo hi x : Nat) : Nat := if x < lo then lo else if hi < x then hi else x

/-- The trim interval in ms (R105). -/
def trimIntervalOf (m : MaintSettings) (drift : Nat) : Nat :=
  let d := m.tempSens * drift + 100 * m.voltSens * m.voltDrift
  if d = 0 then m.trimMaxMs else clamp m.trimMinMs m.trimMaxMs (100000 * m.trimReach / d)

/-! ## Channel settings (file 07, section 7.4) -/

/-- The setting at a field index. -/
def Settings.field (x : Settings) : Nat → Option Nat
  | 0 => some x.openToAccess
  | 1 => some x.openMin
  | 2 => some x.closeTime
  | 3 => some x.openCycle
  | 4 => some x.openSpacing
  | 5 => some x.windowTime
  | 6 => some x.burstTime
  | 7 => some x.readReturn
  | 8 => some x.writeRecovery
  | 9 => some x.writeToRead
  | 10 => some x.readToWrite
  | 11 => some x.refreshTime
  | 12 => some x.refreshInterval
  | 13 => some x.trimShort
  | 14 => some x.trimLong
  | 15 => some x.dozeExit
  | 16 => some x.retainExitShort
  | 17 => some x.retainExitLong
  | 18 => some x.settleTime
  | 19 => some x.rowHold
  | 20 => some x.idleTimeout
  | 21 => some x.powerupWait
  | 22 => some x.rowsPerBank
  | _ => none

/-- The settings with the one at a field index replaced. -/
def Settings.withField (x : Settings) (i v : Nat) : Settings :=
  match i with
  | 0 => { x with openToAccess := v }
  | 1 => { x with openMin := v }
  | 2 => { x with closeTime := v }
  | 3 => { x with openCycle := v }
  | 4 => { x with openSpacing := v }
  | 5 => { x with windowTime := v }
  | 6 => { x with burstTime := v }
  | 7 => { x with readReturn := v }
  | 8 => { x with writeRecovery := v }
  | 9 => { x with writeToRead := v }
  | 10 => { x with readToWrite := v }
  | 11 => { x with refreshTime := v }
  | 12 => { x with refreshInterval := v }
  | 13 => { x with trimShort := v }
  | 14 => { x with trimLong := v }
  | 15 => { x with dozeExit := v }
  | 16 => { x with retainExitShort := v }
  | 17 => { x with retainExitLong := v }
  | 18 => { x with settleTime := v }
  | 19 => { x with rowHold := v }
  | 20 => { x with idleTimeout := v }
  | 21 => { x with powerupWait := v }
  | 22 => { x with rowsPerBank := v }
  | _ => x

/-- A value lies in the range of the settings table. -/
def settingInRange (i v : Nat) : Bool :=
  if i ≤ 20 then v ≤ 1000000
  else if i = 21 then v ≤ 10000
  else v == 16384 || v == 32768 || v == 65536

/-- The field indexes of the timing settings other than idle_timeout (20) and rows_per_bank (22): R121, first case. -/
def nonzeroSettings : List Nat := [0, 1, 2, 3, 4, 5, 6, 7, 8, 9, 10, 11, 12, 13, 14, 15, 16, 17, 18, 19, 21]

/-- The settings fail the validation of R121. -/
def Settings.invalid (x : Settings) : Bool :=
  nonzeroSettings.any (fun i => x.field i == some 0)
    || x.openCycle < x.openMin + x.closeTime
    || x.refreshInterval < 8 * (x.refreshTime + x.closeTime)
    || x.trimLong < x.trimShort

/-! ## Maintenance settings (R104, R154) -/

/-- The maintenance setting at a field index (file 11, section 11.5). -/
def MaintSettings.field (m : MaintSettings) : Nat → Option Nat
  | 0 => some m.urgencyThreshold
  | 1 => some m.trimReach
  | 2 => some m.tempSens
  | 3 => some m.voltSens
  | 4 => some m.voltDrift
  | 5 => some m.trimMinMs
  | 6 => some m.trimMaxMs
  | 7 => some m.trimGraceUs
  | 8 => some m.staleTimeoutMs
  | 9 => some m.noticeEnable
  | _ => none

/-- The maintenance settings with the one at a field index replaced. -/
def MaintSettings.withField (m : MaintSettings) (i v : Nat) : MaintSettings :=
  match i with
  | 0 => { m with urgencyThreshold := v }
  | 1 => { m with trimReach := v }
  | 2 => { m with tempSens := v }
  | 3 => { m with voltSens := v }
  | 4 => { m with voltDrift := v }
  | 5 => { m with trimMinMs := v }
  | 6 => { m with trimMaxMs := v }
  | 7 => { m with trimGraceUs := v }
  | 8 => { m with staleTimeoutMs := v }
  | 9 => { m with noticeEnable := v }
  | _ => m

/-- A value lies in the range of the maintenance setting at a field index (R104, R154). -/
def maintInRange (i v : Nat) : Bool :=
  match i with
  | 0 => 1 ≤ v && v ≤ 8
  | 1 => 1 ≤ v && v ≤ 100000
  | 2 | 3 => v ≤ 100000
  | 4 => v ≤ 10000
  | 5 | 6 => 1 ≤ v && v ≤ 60000
  | 7 => 1 ≤ v && v ≤ 100000
  | 8 => 100 ≤ v && v ≤ 10000
  | 9 => v ≤ 255
  | _ => false

/-! ## Notices and faults (file 09, sections 9.7, 9.8) -/

/-- The number of a notice kind. -/
def NoticeKind.number : NoticeKind → Nat
  | .tempOver => 0
  | .tempStale => 1
  | .refreshOverdue => 2
  | .mapDrained => 3
  | .overrun => 4
  | .tagReuse => 5
  | .poisoned => 6
  | .replayFail => 7

/-- The kind is in notice_enable (R154). -/
def noticeEnabled (enable : Nat) (k : NoticeKind) : Bool := enable.testBit k.number

/-- The place of a pair in the order of sending: kind number first, channel 0 before channel 1 (R161). -/
def Notice.rank (n : Notice) : Nat :=
  2 * n.kind.number + (match n.chan with | some c => c.val | none => 0)

/-- Two notices are the same pair (kind, channel). -/
def Notice.samePair (a b : Notice) : Bool := a.kind == b.kind && a.chan == b.chan

/-- A signed value as a 32-bit word in two's complement (file 11, section 11.4). -/
def signed32 (v : Int) : Word32 := BitVec.ofInt 32 v

/-- The detail of OVERRUN and TAG_REUSE: the stream × 64 + the tag (file 11, section 11.3). -/
def tagDetail (st : StreamIx) (t : TagIx) : Word32 := BitVec.ofNat 32 (st.val * 64 + t.val)

/-- The detail of POISONED: the bank × 65536 + the row (file 11, section 11.3). -/
def bankRowDetail (b : BankIx) (row : Nat) : Word32 := BitVec.ofNat 32 (b.val * 65536 + row)

/-- The code of a band (R85). -/
def Band.code : Band → Nat
  | .normal => 0
  | .hot => 1
  | .over => 2

/-! ## The address map (file 02) -/

/-- Where a request lies: channel, bank, row and column line (R26). -/
structure Location where
  chan : Chan
  bank : BankIx
  row : Nat
  col : Nat
deriving DecidableEq, Repr

/-- Lines in a granule: 2^k (file 02, section 2.1). -/
def Layout.granule (l : Layout) : Nat := 2 ^ l.granuleK

/-- The channel and channel line of line index `i` (R25). -/
def Layout.channelLine (l : Layout) (i : Nat) : Chan × Nat :=
  let g := l.granule
  match l.mode with
  | .split => (if (i / g) % 2 = 0 then 0 else 1, (i / g / 2) * g + i % g)
  | .ch0 => (0, i)
  | .ch1 => (1, i)

/-- The bank line of a channel line (R26). -/
def Layout.bankLine (l : Layout) (j : Nat) : Nat := (j / l.granule / 8) * l.granule + j % l.granule

/-- The bank of a channel line (R26). -/
def Layout.bankOf (l : Layout) (j : Nat) : BankIx := ⟨j / l.granule % 8, Nat.mod_lt _ (by decide)⟩

/-- The location of line index `i` of a region (R25, R26). -/
def Layout.locate (l : Layout) (rowBase i : Nat) : Location :=
  let cl := l.channelLine i
  ⟨cl.1, l.bankOf cl.2, rowBase + l.bankLine cl.2 / Config.linesPerRow, l.bankLine cl.2 % Config.linesPerRow⟩

/-- The region holds the address (R24). -/
def Region.holds (r : Region) (a : HostAddr) : Bool := r.valid && r.base ≤ a && a ≤ r.limit

/-- The number of lines of a region (R34). -/
def Region.lines (r : Region) : Nat := (r.limit.toNat + 1 - r.base.toNat) / 64

/-- The layout entry a region names, when its number is 0 to 3. -/
def layoutAt (ls : Vector Layout 4) (n : Nat) : Layout := ((tableList ls)[n]?).getD layoutAtReset

/-- The chunks a region of `n` lines holds on a channel (R34). -/
def Layout.chunksOn (l : Layout) (n : Nat) (c : Chan) : Nat :=
  let total := n / l.granule
  match l.mode with
  | .split => if c = 0 then (total + 1) / 2 else total / 2
  | .ch0 => if c = 0 then total else 0
  | .ch1 => if c = 1 then total else 0

/-- The last row a region uses on a channel where it holds `chunks` chunks (R34). -/
def Layout.lastRow (l : Layout) (rowBase chunks : Nat) : Nat :=
  rowBase + ((chunks - 1) / 8 * l.granule + l.granule - 1) / Config.linesPerRow

/-- The footprint of a region on a channel: its first and last row, or none (R34). -/
def footprint (ls : Vector Layout 4) (r : Region) (c : Chan) : Option (Nat × Nat) :=
  let l := layoutAt ls r.layout
  let n := l.chunksOn r.lines c
  if n = 0 then none else some (r.rowBase, l.lastRow r.rowBase n)

/-- The BAD_LAYOUT test of one region (R33). -/
def Region.badLayout (r : Region) : Bool :=
  r.base.toNat % 4096 != 0 || (r.limit.toNat + 1) % 4096 != 0 || r.limit < r.base || 3 < r.layout

/-- The OVERLAP test of two regions (R33). -/
def Region.overlaps (r q : Region) : Bool := r.base ≤ q.limit && q.base ≤ r.limit

/-- A region's footprint on a channel reaches row `rows` or beyond (R34, R123). -/
def beyondRows (ls : Vector Layout 4) (r : Region) (c : Chan) (rows : Nat) : Bool :=
  match footprint ls r c with
  | some (_, last) => rows ≤ last
  | none => false

/-- Two regions' footprints share a row on a channel (R34). -/
def aliasesOn (ls : Vector Layout 4) (r q : Region) (c : Chan) : Bool :=
  match footprint ls r c, footprint ls q c with
  | some (a, b), some (x, y) => a ≤ y && x ≤ b
  | _, _ => false

/-- Some two entries of a list, one before the other, satisfy `f`. -/
def anyPair {α : Type} (f : α → α → Bool) : List α → Bool
  | [] => false
  | x :: xs => xs.any (f x) || anyPair f xs

/-- The valid entries of a region table. -/
def validRegions (t : Vector Region 16) : List Region := (tableList t).filter (·.valid)

/-! ## Stored words (file 08, section 8.2) -/

/-- The number of bits that are set. -/
def bitCount (x : Word64) : Nat := (List.range 64).countP (x.getLsbD ·)

/-- How many bits of a stored word and of its code have changed since the code was made (R139). -/
def StoredWord.changedBits (w : StoredWord) : Nat := bitCount (w.data ^^^ w.codeOf) + w.codeFlips

/-- The word to be returned: corrected when exactly one bit changed, else as it arrived (R139). -/
def StoredWord.returned (w : StoredWord) : Word64 := if w.changedBits = 1 then w.codeOf else w.data

/-- The word was corrected: one bit of it or of its code differed (R139). -/
def StoredWord.corrected (w : StoredWord) : Bool := w.changedBits == 1

/-- The word is uncorrectable: more than one bit changed (R139; file 08, section 8.2). -/
def StoredWord.uncorrectable (w : StoredWord) : Bool := 2 ≤ w.changedBits

/-- The address of a word in a channel's DRAM: bank, row (16 bits), column line (7 bits), word (3 bits). -/
def wordAddress (b : BankIx) (row col : Nat) (w : WordIx) : Nat :=
  ((b.val * 65536 + row) * 128 + col) * 8 + w.val

end Sys2Proof.Machine
end

