-- ==== Sys2Proof/Machine/Operands.lean ====
section
/-! DEFINITION. The operand forms of the commands that act on the head of the ingress queue: what a host packet asks
for, read from its payload (file 11), and the row of the opcode table that serves it. -/

namespace Sys2Proof.Machine

/-- A multi-byte field, least significant byte first (file 11, introduction). -/
def leNat (bs : List Byte) : Nat := bs.foldr (fun b acc => b.toNat + 256 * acc) 0

/-- `n` bytes of a payload from byte `i`. -/
def byteSlice (bs : List Byte) (i n : Nat) : List Byte := (bs.drop i).take n

/-- Byte `i` of a payload. -/
def byteAt (bs : List Byte) (i : Nat) : Byte := bs.getD i 0

/-- A reserved field is zero (R180). -/
def allZero (bs : List Byte) : Bool := bs.all (· == 0#8)

/-- Word `n` of the line whose bytes are `bs` (file 11, section 11.3, WRITE). -/
def lineWord (bs : List Byte) (n : Nat) : Word64 := BitVec.ofNat 64 (leNat (byteSlice bs (8 * n) 8))

/-- The eight words of a line from its 64 bytes. -/
def lineOfBytes (bs : List Byte) : Line :=
  #v[lineWord bs 0, lineWord bs 1, lineWord bs 2, lineWord bs 3,
     lineWord bs 4, lineWord bs 5, lineWord bs 6, lineWord bs 7]

/-- A management address: table, entry and field index (file 11, section 11.4). -/
structure MgmtAddr where
  table : Nat
  entry : Nat
  field : Nat
deriving DecidableEq, Repr

/-- What a host packet asks for (file 01, section 1.1), or `malformed` (R180). -/
inductive Request
  | malformed
  | read (addr : HostAddr)
  | write (addr : HostAddr) (enable : BitVec 8) (data : Line)
  | flush
  | mgmtRead (a : MgmtAddr)
  | mgmtWrite (a : MgmtAddr) (value : Word32)
  | mgmtCommand (code : Nat) (channel : Nat) (arg : Option Word32)
deriving DecidableEq, Repr

/-- The 40-bit address in bytes 0 to 4 of a READ or WRITE payload. -/
def addrOf (b : List Byte) : HostAddr := BitVec.ofNat 40 (leNat (b.take 5))

/-- The management address in bytes 0 to 2 of a management payload. -/
def mgmtAddrOf (b : List Byte) : MgmtAddr := ⟨(byteAt b 0).toNat, (byteAt b 1).toNat, (byteAt b 2).toNat⟩

/-- A 32-bit field at byte `i`. -/
def word32At (b : List Byte) (i : Nat) : Word32 := BitVec.ofNat 32 (leNat (byteSlice b i 4))

/-- The argument of a MGMT_COMMAND: absent when bit 0 of the flags is 0 (file 11, section 11.3). -/
def commandArg (b : List Byte) : Option Word32 :=
  if (byteAt b 2).getLsbD 0 then some (word32At b 4) else none

/-- The reserved fields of a MGMT_COMMAND payload are zero: flags bits 7 to 1, byte 3, and the argument word when the
argument-present flag is 0 (R180). -/
def commandReservedZero (b : List Byte) : Bool :=
  (byteAt b 2 &&& 0xFE#8) == 0#8 && byteAt b 3 == 0#8 &&
    ((byteAt b 2).getLsbD 0 || allZero (byteSlice b 4 4))

/-- The judgment of form of R180, and the fields of a packet that passes it. -/
def requestOf (p : Packet) : Request :=
  let b := p.payload
  if p.kind == 0x01#8 then
    if b.length == 8 && allZero (b.drop 5) then .read (addrOf b) else .malformed
  else if p.kind == 0x02#8 then
    if b.length == 72 && allZero (byteSlice b 6 2) then
      .write (addrOf b) (byteAt b 5) (lineOfBytes (b.drop 8)) else .malformed
  else if p.kind == 0x03#8 then
    if b.length == 0 then .flush else .malformed
  else if p.kind == 0x04#8 then
    if b.length == 4 && byteAt b 3 == 0#8 then .mgmtRead (mgmtAddrOf b) else .malformed
  else if p.kind == 0x05#8 then
    if b.length == 8 && byteAt b 3 == 0#8 then .mgmtWrite (mgmtAddrOf b) (word32At b 4) else .malformed
  else if p.kind == 0x06#8 then
    if b.length == 8 && commandReservedZero b then
      .mgmtCommand (byteAt b 0).toNat (byteAt b 1).toNat (commandArg b) else .malformed
  else .malformed

/-- The row that serves a management write (log entry 13): the field's own row where the table of commands has one,
MGMT_WRITE for every other field and for addresses that name nothing. -/
def writeRow (a : MgmtAddr) : Instr :=
  match a.table with
  | 1 =>
    match a.field with
    | 0 => .orderModeWrite
    | 1 => .managerWrite
    | 2 => .noticeTargetWrite
    | _ => .mgmtWrite
  | 2 | 3 | 4 | 5 => .mapTableWrite
  | 6 => if a.field = 22 then .rowsPerBankWrite else .channelSettingsWrite
  | 7 =>
    if a.field = 0 then .urgencyThresholdWrite
    else if 1 ≤ a.field ∧ a.field ≤ 6 then .trimSettingsWrite
    else if a.field = 9 then .noticeEnableWrite
    else .mgmtWrite
  | 8 => if a.field = 0 then .temperatureReport else .mgmtWrite
  | _ => .mgmtWrite

/-- The row that serves a MGMT_COMMAND, by its command code (file 11, section 11.4; R157). -/
def commandRow (code : Nat) : Instr :=
  match code with
  | 1 => .init
  | 2 => .hold
  | 3 => .resume
  | 4 => .retain
  | 5 => .wake
  | 6 => .trimLong
  | 16 => .commitMap
  | 17 => .copyLiveToShadow
  | 18 => .clearFault
  | 19 => .clearCounters
  | 20 => .functionReset
  | _ => .unknownCommandCode

/-- The row that takes a packet at the head of the ingress queue (R12). -/
def headRow : Request → Instr
  | .malformed => .unknownKind
  | .read _ => .read
  | .write _ _ _ => .write
  | .flush => .flush
  | .mgmtRead _ => .mgmtRead
  | .mgmtWrite a _ => writeRow a
  | .mgmtCommand code _ _ => commandRow code

/-- The channel a channel command names: 0 or 1, or none for any other channel byte (R181). -/
def chanOf (channel : Nat) : Option Chan :=
  match channel with
  | 0 => some 0
  | 1 => some 1
  | _ => none

/-- The number a link control payload carries in byte 0 (file 11, section 11.3); bytes 1 to 3 are not read (R182). -/
def controlNumber (payload : List Byte) : Byte := byteAt payload 0

end Sys2Proof.Machine
end

