-- ==== Sys2Proof/Machine/Ops.lean ====
section
/-! DEFINITION. The named operations the meanings share: access to the blocks, the DRAM contents, the response queue,
notices and faults, epochs, long commands, the bank records, the channel's drains and timers, the discards of a reset,
the link reset and the taking of the head of the ingress queue. -/

namespace Sys2Proof.Machine

/-! ## Access to the blocks -/

/-- The state of a channel. -/
def State.chan (s : State) (c : Chan) : Channel := s.chans[c]

/-- The state with a channel replaced. -/
def State.setChan (s : State) (c : Chan) (x : Channel) : State := { s with chans := s.chans.set c x }

/-- The state with a channel changed by `f`. -/
def State.modChan (s : State) (c : Chan) (f : Channel → Channel) : State := s.setChan c (f (s.chan c))

/-- The state with the Link Port changed by `f`. -/
def State.modLink (s : State) (f : Link → Link) : State := { s with link := f s.link }

/-- The state with the Intake changed by `f`. -/
def State.modIntake (s : State) (f : Intake → Intake) : State := { s with intake := f s.intake }

/-- The state with the Map Unit changed by `f`. -/
def State.modMap (s : State) (f : MapUnit → MapUnit) : State := { s with map := f s.map }

/-- The state with the Return Unit changed by `f`. -/
def State.modRet (s : State) (f : ReturnUnit → ReturnUnit) : State := { s with ret := f s.ret }

/-- The state with the Management Unit changed by `f`. -/
def State.modMgmt (s : State) (f : Mgmt → Mgmt) : State := { s with mgmt := f s.mgmt }

/-- What the Intake holds for a stream. -/
def State.stream (s : State) (i : StreamIx) : StreamEntry := s.intake.streams[i]

/-- The state with a stream's entry changed by `f`. -/
def State.modStream (s : State) (i : StreamIx) (f : StreamEntry → StreamEntry) : State :=
  s.modIntake fun x => { x with streams := x.streams.set i (f x.streams[i]) }

/-- The record of a bank. -/
def Channel.bank (x : Channel) (b : BankIx) : Bank := x.banks[b]

/-- The channel with a bank record changed by `f`. -/
def Channel.modBank (x : Channel) (b : BankIx) (f : Bank → Bank) : Channel :=
  { x with banks := x.banks.set b (f x.banks[b]) }

/-- The entries of a bank's list, oldest first (R45). -/
def Channel.bankList (x : Channel) (b : BankIx) : List PoolEntry := x.pool.filter (·.bank == b)

/-- The channel's counters changed by `f`. -/
def Channel.count (x : Channel) (f : Counters → Counters) : Channel := { x with counters := f x.counters }

/-- The DRAM command a channel issues, kept as the last one on its command bus. -/
def Channel.issue (x : Channel) (d : DramCommand) : Channel := { x with lastCommand := some d }

/-- The part's millisecond count (R84). -/
def State.millis (s : State) : Nat := s.now / Config.unitsPerMs

/-- The band in force (R90). -/
def State.band (s : State) : Band := s.mgmt.temp.band

/-! ## DRAM contents (R69, R139, R140) -/

/-- The word listed at an address, if any. -/
def dramLookup : List (Nat × StoredWord) → Nat → Option StoredWord
  | [], _ => none
  | (a, w) :: t, k => if a = k then some w else dramLookup t k

/-- The list with a word stored at an address; addresses stay strictly rising. -/
def dramStore (k : Nat) (w : StoredWord) : List (Nat × StoredWord) → List (Nat × StoredWord)
  | [] => [(k, w)]
  | (a, v) :: t =>
    if k < a then (k, w) :: (a, v) :: t
    else if k = a then (k, w) :: t
    else (a, v) :: dramStore k w t

/-- The canonical form: addresses strictly rising. -/
def dramWf : List (Nat × StoredWord) → Bool
  | [] => true
  | (a, _) :: t => t.all (fun p => a < p.1) && dramWf t

/-- An unlisted word: undefined, data and check code (R61, R140): free values. -/
def undefinedWord (c : Chan) (gen k : Nat) : StoredWord :=
  ⟨Config.dramData c.val gen k, Config.dramCodeOf c.val gen k, Config.dramCodeFlips c.val gen k⟩

/-- What the DRAM of channel `c` holds at a word address. -/
def Channel.storedWord (x : Channel) (c : Chan) (k : Nat) : StoredWord :=
  (dramLookup x.dram k).getD (undefinedWord c x.dramGen k)

/-- The channel with a word stored in its DRAM. -/
def Channel.storeWord (x : Channel) (k : Nat) (w : StoredWord) : Channel := { x with dram := dramStore k w x.dram }

/-- The eight stored words of a line. -/
def Channel.storedLine (x : Channel) (c : Chan) (b : BankIx) (row col : Nat) : Vector StoredWord 8 :=
  let w := fun i => x.storedWord c (wordAddress b row col i)
  #v[w 0, w 1, w 2, w 3, w 4, w 5, w 6, w 7]

/-- One enabled word of a write is stored with a new check code; a word not enabled keeps data and code (R69). -/
def storeEnabled (b : BankIx) (row col : Nat) (data : Line) (enable : BitVec 8) (x : Channel) (i : WordIx) : Channel :=
  if enable.getLsbD i.val then x.storeWord (wordAddress b row col i) ⟨data[i], data[i], 0⟩ else x

/-- The words of a write under its word-enable set go to the DRAM (R69). -/
def Channel.storeLine (x : Channel) (b : BankIx) (row col : Nat) (data : Line) (enable : BitVec 8) : Channel :=
  wordIxs.foldl (storeEnabled b row col data enable) x

/-- One change that a read finds in its line: it stays in the DRAM, which a correction does not rewrite (R139). -/
def applyChange (c : Chan) (b : BankIx) (row col : Nat) (x : Channel) (ch : CellChange) : Channel :=
  let k := wordAddress b row col ch.word
  x.storeWord k ⟨ch.data, (x.storedWord c k).codeOf, ch.codeFlips⟩

/-- All changes that a read finds in its line. -/
def Channel.applyChanges (x : Channel) (c : Chan) (b : BankIx) (row col : Nat) (cs : List CellChange) : Channel :=
  cs.foldl (applyChange c b row col) x

/-- The contents of a channel's DRAM become undefined (R116, R120). -/
def Channel.loseContents (x : Channel) : Channel := { x with dram := [], dramGen := x.dramGen + 1 }

/-! ## Notices and faults (file 09) -/

/-- A notice put at its place in the order of sending (R161). -/
def insertNotice (n : Notice) : List Notice → List Notice
  | [] => [n]
  | m :: t => if n.rank < m.rank then n :: m :: t else m :: insertNotice n t

/-- A block raises a notice (R160): it is added when its kind is enabled and its pair is not pending; when the set was
empty the notice wait count begins from 0. -/
def State.raiseNotice (s : State) (n : Notice) : State :=
  if noticeEnabled s.mgmt.settings.noticeEnable n.kind && !(s.mgmt.notices.any n.samePair) then
    let s1 := if s.mgmt.notices.isEmpty then s.modRet fun r => { r with noticeWait := 0 } else s
    s1.modMgmt fun m => { m with notices := insertNotice n m.notices }
  else s

/-- A raised fault becomes the first fault, or raises the count up to 255 (R164). -/
def State.raiseFault (s : State) (n : Notice) : State :=
  s.modMgmt fun m => { m with fault :=
    match m.fault with
    | none => some ⟨n.kind, n.chan, n.detail, 1⟩
    | some f => some { f with count := if f.count < 255 then f.count + 1 else f.count } }

/-- A fault and the notice of the same name, channel and detail (R163). -/
def State.raiseBoth (s : State) (n : Notice) : State := (s.raiseFault n).raiseNotice n

/-! ## Responses (file 08) -/

/-- A response joins the tail of the response queue (R141). -/
def State.handOver (s : State) (r : Response) : State := s.modRet fun x => { x with queue := x.queue ++ [r] }

/-- The response to a packet of the ingress queue is ready. -/
def State.answer (s : State) (q : QueuedPacket) (body : RespBody) : State :=
  s.handOver ⟨q.packet.stream, q.packet.tag, q.order, body, false⟩

/-- A MGMT_RESP without a value is ready. -/
def State.answerCode (s : State) (q : QueuedPacket) (code : MgmtCode) : State := s.answer q (.mgmtResp code none)

/-- An ERROR_RESP is ready. -/
def State.answerError (s : State) (q : QueuedPacket) (code : ErrCode) : State := s.answer q (.errorResp code)

/-- The state with a completion slot set. -/
def State.setSlot (s : State) (i : SlotIx) (x : Slot) : State := s.modRet fun r => { r with slots := r.slots.set i x }

/-- The lowest-numbered FREE slot (R137). -/
def ReturnUnit.freeSlot (r : ReturnUnit) : Option SlotIx := slotIxs.find? fun i => r.slots[i] == .free

/-! ## Epochs (R36 to R39) -/

/-- MAP_DRAINED for the epoch before the current one (R39). -/
def State.raiseDrained (s : State) : State :=
  s.raiseNotice ⟨.mapDrained, none, BitVec.ofNat 32 (s.map.epoch - 1).toNat⟩

/-- A request stamped `e` retires: the count of its epoch falls by 1 (R36), and the previous epoch's count reaching
zero raises MAP_DRAINED (R39). -/
def State.retire (s : State) (e : Epoch) : State :=
  if e = s.map.epoch then s.modMap fun m => { m with current := m.current - 1 }
  else
    let s1 := s.modMap fun m => { m with previous := m.previous - 1 }
    if s.map.previous = 1 then s1.raiseDrained else s1

/-! ## Long commands (R158) -/

/-- A long command enters its channel's record, answerable. -/
def State.beginLong (s : State) (c : Chan) (q : QueuedPacket) (command : LongCommand) : State :=
  s.modChan c fun x => { x with longCmd := some ⟨command, q.packet.stream, q.packet.tag, q.order, true⟩ }

/-- A long command leaves its channel's record; its MGMT_RESP is ready if it is still answerable. -/
def State.endLong (s : State) (c : Chan) (code : MgmtCode) : State :=
  match (s.chan c).longCmd with
  | none => s
  | some r =>
    let s1 := s.modChan c fun x => { x with longCmd := none }
    if r.answerable then s1.handOver ⟨r.stream, r.tag, r.order, .mgmtResp code none, false⟩ else s1

/-! ## Bank records and the state of a channel (files 03, 04, 07) -/

/-- Every bank of the channel is CLOSED (R58). -/
def Channel.allClosed (x : Channel) : Bool := bankIxs.all fun b => (x.bank b).state == .closed

/-- No burst is in flight: no write burst, no issued read and no read burst (file 04, section 4.2). -/
def Channel.noBurst (x : Channel) : Bool := x.writeBurst.isNone && x.issued.isEmpty && x.readBurst.isNone

/-- The bank is OPEN, whatever its row. -/
def Bank.isOpen (k : Bank) : Bool :=
  match k.state with
  | .opened _ => true
  | _ => false

/-- An OPEN bank with an empty list starts its row_hold timer if it does not run (R55). -/
def Channel.startRowHold (x : Channel) (now : Nat) (b : BankIx) : Channel :=
  if (x.bank b).isOpen && (x.bankList b).isEmpty && !(x.bank b).rowHold.isRunning then
    x.modBank b fun k => { k with rowHold := Timer.start now x.settings.rowHold }
  else x

/-- A maintenance force is in effect (R78). -/
def Channel.force (x : Channel) : Bool := x.urgent || x.graceForce || x.longTrimRequest

/-- The hold drain is complete: the four conditions of R125, at the first moment they hold. Neither a maintenance operation in
progress nor a force in effect is among them: both continue in HELD (R80, R125). A force holds up the drain before that, in
the selector, which serves no entry of the pool under it (R78, R79, R124; log entry 27). -/
def Channel.drained (x : Channel) : Bool :=
  x.state == .holding && x.pool.isEmpty && x.noBurst && x.allClosed && !x.dozeExit.isRunning

/-- The channel is idle (R127), its state apart. -/
def Channel.idle (x : Channel) : Bool :=
  x.pool.isEmpty && x.noBurst && x.allClosed && x.maint.isNone && !x.shortTrimDue && !x.longTrimRequest
    && x.debt ≤ 0 && !x.dozeExit.isRunning

/-- The idle timer starts at the event that makes an ACTIVE channel idle, and stops at the event that ends this (R127). -/
def Channel.judgeIdle (x : Channel) (now : Nat) : Channel :=
  if x.state == .active && x.idle && x.settings.idleTimeout != 0 then
    if x.idleTimer.isRunning then x else { x with idleTimer := Timer.start now x.settings.idleTimeout }
  else { x with idleTimer := .stopped }

/-- What every event of a channel ends with: a complete hold drain enters HELD and answers HOLD (R125), and idleness
is judged (R127). -/
def State.settle (s : State) (c : Chan) : State :=
  let s1 := if (s.chan c).drained then (s.modChan c fun x => { x with state := .held }).endLong c .ok else s
  s1.modChan c fun x => x.judgeIdle s1.now

/-- Both channels settle, channel 0 first: where both end a HOLD, its answers join the response queue in that order (log
entry 29). -/
def State.settleAll (s : State) : State := (s.settle 0).settle 1

/-- The channel leaves DOZE for a state: the doze exit step, and the doze_exit wait starts (R128). -/
def Channel.leaveDoze (x : Channel) (now : Nat) (st : ChanState) : Channel :=
  { x with state := st, dozeExit := Timer.start now x.settings.dozeExit, lastCommand := some .dozeExit }

/-- The refresh account is stopped with debt 0 (R98: entry to STARTING and to RETAINED). -/
def Channel.stopAccount (x : Channel) : Channel := { x with debt := 0, urgent := false, interval := .stopped }

/-- The refresh account starts afresh with the length of the band in force (R98: entry to ACTIVE; R100). -/
def Channel.freshAccount (x : Channel) (now : Nat) (b : Band) : Channel :=
  { x with debt := 0, urgent := false, interval := Timer.start now (intervalLength b x.settings) }

/-- The trim and grace timers are stopped and a due short trim is abandoned with its force condition (R113). -/
def Channel.stopTrim (x : Channel) : Channel :=
  { x with trimTimer := .stopped, graceTimer := .stopped, shortTrimDue := false, graceForce := false }

/-- A short trim becomes due (R107): the trim timer stops, the grace timer starts, and a doze ends. -/
def Channel.shortTrimFallsDue (x : Channel) (now graceUs : Nat) : Channel :=
  let y := { x with shortTrimDue := true, trimTimer := .stopped,
                    graceTimer := Timer.start now (graceUs * Config.unitsPerUs) }
  if x.state = .doze then y.leaveDoze now .active else y

/-- The trim timer starts with the trim interval in force (R109, R111). -/
def Channel.startTrimTimer (x : Channel) (now : Nat) : Channel :=
  { x with trimTimer := Timer.start now (x.trimInterval * Config.unitsPerMs) }

/-- The channel recomputes its trim interval (R105, R106). -/
def Channel.recomputeTrim (x : Channel) (now : Nat) (m : MaintSettings) (drift : Nat) : Channel :=
  let i := trimIntervalOf m drift
  if i = x.trimInterval then x
  else
    let y := { x with trimInterval := i }
    match x.trimTimer with
    | .running st _ =>
      if i * Config.unitsPerMs ≤ now - st then y.shortTrimFallsDue now m.trimGraceUs
      else { y with trimTimer := .running st (st + i * Config.unitsPerMs) }
    | _ => y

/-- Both channels recompute their trim interval, and settle. -/
def State.recomputeTrims (s : State) : State :=
  let f := fun x : Channel => x.recomputeTrim s.now s.mgmt.settings s.mgmt.temp.drift
  ((s.modChan 0 f).modChan 1 f).settleAll

/-- urgent is yes exactly while the debt has reached the threshold (R94). -/
def Channel.judgeUrgent (x : Channel) (threshold : Nat) : Channel := { x with urgent := (threshold : Int) ≤ x.debt }

/-- A band change reaches a channel: the running interval is cut when the new length is shorter than the old one and
the time remaining exceeds it (R93). Both lengths are taken from refresh_interval as it is stored at the band change; that
R93 means this value, and not the one the running interval started with, is the model's choice (log entry 30). -/
def Channel.takeBand (x : Channel) (now : Nat) (old new : Band) : Channel :=
  let n := intervalLength new x.settings
  match x.interval with
  | .running st e =>
    if n < intervalLength old x.settings ∧ now + n < e then { x with interval := .running st (now + n) } else x
  | _ => x

/-- The band in force becomes `b`; a change is delivered to both channels (R90). -/
def State.setBand (s : State) (b : Band) : State :=
  if b = s.band then s
  else
    let f := fun x : Channel => x.takeBand s.now s.band b
    ((s.modMgmt fun m => { m with temp := { m.temp with band := b } }).modChan 0 f).modChan 1 f

/-- The channel enters WAKING: the retention exit step, and both retain_exit timers start (R132). -/
def Channel.beginWake (x : Channel) (now : Nat) : Channel :=
  { x with state := .waking, seqStep := .shortExit,
           retainExitShort := Timer.start now x.settings.retainExitShort,
           retainExitLong := Timer.start now x.settings.retainExitLong,
           lastCommand := some .retentionExit }

/-- The channel enters ACTIVE from STARTING or WAKING: the account starts afresh (R98) and the long command, if the
sequence has one, is answered OK (R120, R133). -/
def State.enterActive (s : State) (c : Chan) : State :=
  (s.modChan c fun x => { (x.freshAccount s.now s.band) with state := .active, seqStep := .none }).endLong c .ok

/-! ## The head of the ingress queue (file 01, section 1.4) -/

/-- The packet at the head is taken: its slot is free and one request credit is owed (R11, R171). -/
def State.takeHead (s : State) : State :=
  (s.modIntake fun x => { x with queue := x.queue.tail }).modLink fun l => { l with owed := l.owed + 1 }

/-- Serve the packet at the head if `row` is its row: any other head leaves the state as it is (log entry 1). -/
def State.serveHead (s : State) (row : Instr) (serve : QueuedPacket → Request → State) : State :=
  match s.intake.queue with
  | [] => s
  | q :: _ => if headRow (requestOf q.packet) = row then serve q (requestOf q.packet) else s

/-- A management packet at the head is taken: DENIED when its stream is no manager (R12), else executed (R151). -/
def State.serveManaged (s : State) (row : Instr) (act : QueuedPacket → Request → State → State) : State :=
  s.serveHead row fun q r =>
    if (s.stream q.packet.stream).manager then act q r s.takeHead
    else s.takeHead.answerError q .denied

/-- A MGMT_WRITE is judged and either carried out with code OK or refused with its code and no effect (R151). -/
def State.serveWrite (s : State) (row : Instr)
    (judge : QueuedPacket → MgmtAddr → Word32 → State → MgmtCode)
    (carry : QueuedPacket → MgmtAddr → Word32 → State → State) : State :=
  s.serveManaged row fun q r t =>
    match r with
    | .mgmtWrite a v =>
      let code := judge q a v t
      (if code = .ok then carry q a v t else t).answerCode q code
    | _ => t

/-- A MGMT_COMMAND is executed with its channel byte and argument. -/
def State.serveCommand (s : State) (row : Instr)
    (act : QueuedPacket → Nat → Option Word32 → State → State) : State :=
  s.serveManaged row fun q r t =>
    match r with
    | .mgmtCommand _ ch arg => act q ch arg t
    | _ => t

/-! ## Flush lists (R15) -/

/-- A flush record after a write of order number `o` was issued: its count falls when its flush is later (R15). -/
def FlushRecord.lower (o : OrderNo) (r : FlushRecord) : FlushRecord :=
  if orderLater r.order o then { r with count := r.count - 1 } else r

/-- The records at the head of a flush list whose count is zero. -/
def flushesDone (l : List FlushRecord) : List FlushRecord := l.takeWhile (·.count = 0)

/-- The records that still wait. -/
def flushesLeft (l : List FlushRecord) : List FlushRecord := l.dropWhile (·.count = 0)

/-- The issue of a write is reported to the Intake: counts fall, and the FLUSH_DONE of each record that reaches zero is
ready, in list order (R15). -/
def State.reportWrite (s : State) (st : StreamIx) (o : OrderNo) : State :=
  let l := (s.stream st).flushes.map (FlushRecord.lower o)
  (flushesDone l).foldl (fun t r => t.handOver ⟨st, r.tag, r.order, .flushDone, false⟩)
    (s.modStream st fun x => { x with flushes := flushesLeft l })

/-! ## The discards of a link reset and of a function reset -/

/-- A pool entry is discarded: a read's slot is released, a write is reported to the Intake, and the request retires
(R60). -/
def State.discardEntry (s : State) (e : PoolEntry) : State :=
  let s1 := match e.kind with
    | .read slot => s.setSlot slot .free
    | .write _ _ => s.reportWrite e.stream e.order
  s1.retire e.epoch

/-- The pool of a channel is discarded; banks that are OPEN with an empty list start row_hold (R60). -/
def State.discardPool (s : State) (c : Chan) : State :=
  let s1 := (s.chan c).pool.foldl State.discardEntry (s.modChan c fun x => { x with pool := [] })
  s1.modChan c fun x => bankIxs.foldl (fun y b => y.startRowHold s1.now b) x

/-- The write burst on a channel's bus carries the write of this response. -/
def WriteBurst.carries (w : WriteBurst) (r : Response) : Bool :=
  w.stream == r.stream && w.tag == r.tag && w.order == r.order

/-- The channel's burst carries the write of this response. -/
def Channel.carries (x : Channel) (r : Response) : Bool :=
  match x.writeBurst with
  | some w => w.carries r
  | none => false

/-- The discard flag of the burst on a channel's bus becomes yes (R149). -/
def Channel.discardBurst (x : Channel) : Channel :=
  { x with writeBurst := x.writeBurst.map fun w => { w with discard := true } }

/-- A response is emptied from the queue: a WRITE_DONE whose burst is still on the bus marks the burst, any other
WRITE_DONE retires its write (R149). A READ_DATA is emptied with its slot. -/
def State.emptyResponse (s : State) (r : Response) : State :=
  match r.body with
  | .writeDone e c => if (s.chan c).carries r then s.modChan c Channel.discardBurst else s.retire e
  | _ => s

/-- A slot at a reset: a FILLED one returns to FREE and its read retires, a RESERVED one, whose read has been issued,
enters DISCARD (R149). -/
def State.emptySlot (s : State) (i : SlotIx) : State :=
  match s.ret.slots[i] with
  | .filled r _ _ => (s.setSlot i .free).retire r.epoch
  | .reserved r => s.setSlot i (.discard r)
  | _ => s

/-- The Return Unit at a reset (R149). -/
def State.emptyReturn (s : State) : State :=
  let s1 := s.ret.queue.foldl State.emptyResponse s
  let s2 := slotIxs.foldl State.emptySlot s1
  s2.modRet fun r => { r with queue := [], nextToSend := Vector.replicate 4 0, noticeWait := 0 }

/-- The Intake at a reset, the tags `kept` apart (R20, R21). -/
def State.emptyIntake (s : State) (kept : List (StreamIx × TagIx)) : State :=
  s.modIntake fun x =>
    { x with queue := [], tags := kept, streams := mapTable (fun e => { e with nextOrder := 0, flushes := [] }) x.streams }

/-- The long commands of a channel can no longer be answered (R158). -/
def Channel.unanswerable (x : Channel) : Channel :=
  { x with longCmd := x.longCmd.map fun r => { r with answerable := false } }

/-- The Link Port at a link reset: its cold-reset values apart from the link state and the counters, and TRAINING
with the part's HELLO pending (R177, R168). -/
def Link.reset (l : Link) : Link :=
  { linkAtReset with state := .training, helloPending := true, lastTx := l.lastTx,
                     counters := { l.counters with linkResets := bump l.counters.linkResets } }

/-- A link reset, as one step (R177). -/
def State.linkReset (s : State) : State :=
  let s1 := (s.modLink Link.reset).emptyIntake []
  let s2 := ((s1.modChan 0 Channel.unanswerable).modChan 1 Channel.unanswerable)
  (((s2.discardPool 0).discardPool 1).emptyReturn).settleAll

/-! ## The transmit side (R173) -/

/-- The packet put on the link. -/
def Link.transmit (l : Link) (p : TxPacket) : Link := { l with lastTx := some p }

/-- The first send of a response or notice: it receives next_seq, joins the tail of the replay buffer, uses one
response credit, and starts the replay timer if the buffer was empty (R173). -/
def Link.sendNew (l : Link) (now : Nat) (p : OutPacket) : Link :=
  { l with
    nextSeq := l.nextSeq + 1
    replay := l.replay ++ [⟨l.nextSeq, p⟩]
    respCredits := l.respCredits - 1
    replayTimer := if l.replay.isEmpty then Timer.start now Config.replayTime else l.replayTimer
    lastTx := some (.sequenced ⟨l.nextSeq, p⟩) }

/-- An acknowledgment removes the `k` oldest packets of the replay buffer; removing any is progress (R174). -/
def Link.acknowledge (l : Link) (now k : Nat) : Link :=
  if k = 0 then l
  else
    let rest := l.replay.drop k
    { l with
      replay := rest
      attempts := 0
      replayTimer := if rest.isEmpty then .stopped else Timer.start now Config.replayTime
      replayPoint :=
        match l.replayPoint with
        | none => none
        | some p => if rest.any (·.seq == p) then some p else rest.head?.map (·.seq) }

/-- The distance of a number from the oldest packet of the replay buffer (R174). -/
def Link.offset (l : Link) (n : SeqNo) : Nat :=
  match l.replay with
  | [] => 0
  | p :: _ => (n - p.seq).toNat

/-- A replay is called for (R175): from `point` when fewer than four were made since progress, else a replay failure
and a link reset (R176). -/
def State.callReplay (s : State) (point : Option SeqNo) : State :=
  if s.link.attempts < Config.replayAttempts then
    s.modLink fun l => { l with
      replayPoint := point
      attempts := l.attempts + 1
      replayTimer := Timer.start s.now Config.replayTime
      counters := { l.counters with replays := bump l.counters.replays } }
  else
    (s.raiseBoth ⟨.replayFail, none,
      BitVec.ofNat 32 ((s.link.replay.head?.map (·.seq.toNat)).getD 0)⟩).linkReset

end Sys2Proof.Machine
end

