-- ==== Sys2Proof/Machine/Requests.lean ====
section
/-! DEFINITION. The packets at the head of the ingress queue that the Intake and the Map Unit serve: unknown kinds,
reads, writes and flushes (files 01 and 02). -/

namespace Sys2Proof.Machine

/-- UNKNOWN_KIND: the packet is taken and answered ERROR_RESP MALFORMED (R12, R180). -/
def execUnknownKind (s : State) : Host.Outcome State Fault Refusal :=
  .next (s.serveHead .unknownKind fun q _ => s.takeHead.answerError q .malformed)

/-! ## Translation and checks -/

/-- The live region that holds an address (R24). -/
def MapUnit.regionOf (m : MapUnit) (a : HostAddr) : Option Region := (tableList m.liveRegions).find? (·.holds a)

/-- The location of an address in a region (R25, R26). -/
def MapUnit.locate (m : MapUnit) (r : Region) (a : HostAddr) : Location :=
  (layoutAt m.liveLayouts r.layout).locate r.rowBase ((a.toNat - r.base.toNat) / 64)

/-- The fifth check, by the state of the target channel (R28). -/
def stateCheck : ChanState → Option ErrCode
  | .uninit | .starting => some .notReady
  | .holding | .held => some .channelHeld
  | .active | .doze | .retainPending | .retained | .waking => none

/-- The outcome of the five checks: an error code, or the location of the request. -/
inductive CheckResult
  | fails (code : ErrCode)
  | passes (loc : Location)
deriving DecidableEq, Repr

/-- The five checks in their order (R27); `malformed` is the first (R1). -/
def State.check (s : State) (st : StreamIx) (a : HostAddr) (malformed isWrite : Bool) : CheckResult :=
  if malformed then .fails .malformed
  else
    match s.map.regionOf a with
    | none => .fails .unmapped
    | some r =>
      if !r.streams.getLsbD st.val then .fails .denied
      else if isWrite && !r.writable then .fails .readOnly
      else
        let loc := s.map.locate r a
        match stateCheck (s.chan loc.chan).state with
        | some code => .fails code
        | none => .passes loc

/-- The address has a non-zero low 6 bits (R1). -/
def unaligned (a : HostAddr) : Bool := a.toNat % 64 != 0

/-- The pool of a channel has a free entry (R43). -/
def State.poolHasRoom (s : State) (c : Chan) : Bool := (s.chan c).pool.length < Config.poolEntries

/-! ## Placement -/

/-- The pool entry of an accepted request (R44). -/
def poolEntry (q : QueuedPacket) (e : Epoch) (loc : Location) (kind : AccessKind) : PoolEntry :=
  { stream := q.packet.stream, tag := q.packet.tag, order := q.order, epoch := e, kind := kind,
    bank := loc.bank, row := loc.row, col := loc.col, bypass := 0, starved := false }

/-- The entry joins the tail of the pool and of its bank's list; row_hold stops and hold_expired becomes no (R45, R56). -/
def Channel.join (x : Channel) (e : PoolEntry) : Channel :=
  { x with pool := x.pool ++ [e] }.modBank e.bank fun k => { k with rowHold := .stopped, holdExpired := false }

/-- The channel is told of the arrival and acts on it by its state (R28, R128, R131, R132). -/
def State.arrivalAt (s : State) (c : Chan) : State :=
  match (s.chan c).state with
  | .doze => s.modChan c fun x => x.leaveDoze s.now .active
  | .retainPending => (s.modChan c fun x => { x with state := .active }).endLong c .cancelled
  | .retained => s.modChan c fun x => x.beginWake s.now
  | _ => s

/-- The request is counted in the current epoch and its entry is placed (R30). -/
def State.placeEntry (s : State) (c : Chan) (e : PoolEntry) : State :=
  (((s.modMap fun m => { m with current := m.current + 1 }).modChan c fun x => x.join e).arrivalAt c).settle c

/-- What a completion slot records of its read (R30). -/
def readRecord (q : QueuedPacket) (e : Epoch) (loc : Location) : ReadRecord :=
  ⟨q.packet.stream, q.packet.tag, q.order, e, loc.chan, loc.bank, loc.row⟩

/-- An accepted READ is taken with a completion slot (R30, R137). -/
def State.acceptRead (s : State) (q : QueuedPacket) (loc : Location) (i : SlotIx) : State :=
  (s.takeHead.setSlot i (.reserved (readRecord q s.map.epoch loc))).placeEntry loc.chan
    (poolEntry q s.map.epoch loc (.read i))

/-- An accepted WRITE is taken with its data and word-enable set (R30). -/
def State.acceptWrite (s : State) (q : QueuedPacket) (loc : Location) (data : Line) (enable : BitVec 8) : State :=
  s.takeHead.placeEntry loc.chan (poolEntry q s.map.epoch loc (.write data enable))

/-- A READ at the head: refused, taken, or left waiting when a resource is missing (R13, R27, R29). -/
def State.serveRead (s : State) (q : QueuedPacket) (a : HostAddr) : State :=
  match s.check q.packet.stream a (unaligned a) false with
  | .fails code => s.takeHead.answerError q code
  | .passes loc =>
    match s.ret.freeSlot with
    | some i => if s.poolHasRoom loc.chan then s.acceptRead q loc i else s
    | none => s

/-- READ (R29). -/
def execRead (s : State) : Host.Outcome State Fault Refusal :=
  .next (s.serveHead .read fun q r =>
    match r with
    | .read a => s.serveRead q a
    | _ => s)

/-- A WRITE at the head: refused, taken, or left waiting when the pool is full (R13, R27, R29). -/
def State.serveWriteRequest (s : State) (q : QueuedPacket) (a : HostAddr) (enable : BitVec 8) (data : Line) : State :=
  match s.check q.packet.stream a (unaligned a || enable == 0#8) true with
  | .fails code => s.takeHead.answerError q code
  | .passes loc => if s.poolHasRoom loc.chan then s.acceptWrite q loc data enable else s

/-- WRITE (R29). -/
def execWrite (s : State) : Host.Outcome State Fault Refusal :=
  .next (s.serveHead .write fun q r =>
    match r with
    | .write a en d => s.serveWriteRequest q a en d
    | _ => s)

/-! ## Flush -/

/-- The entry is an unissued WRITE of the stream. -/
def PoolEntry.isWriteOf (st : StreamIx) (e : PoolEntry) : Bool :=
  match e.kind with
  | .write _ _ => e.stream == st
  | .read _ => false

/-- The WRITEs of a stream that stand in the two pools (R14). -/
def State.unissuedWrites (s : State) (st : StreamIx) : Nat :=
  (s.chan 0).pool.countP (PoolEntry.isWriteOf st) + (s.chan 1).pool.countP (PoolEntry.isWriteOf st)

/-- A FLUSH at the head is taken: answered at once, recorded, or refused FLUSH_LIMIT (R14). -/
def State.serveFlush (s : State) (q : QueuedPacket) : State :=
  let st := q.packet.stream
  let n := s.unissuedWrites st
  if n = 0 then s.takeHead.answer q .flushDone
  else if (s.stream st).flushes.length < Config.flushRecords then
    s.takeHead.modStream st fun e => { e with flushes := e.flushes ++ [⟨q.packet.tag, q.order, n⟩] }
  else s.takeHead.answerError q .flushLimit

/-- FLUSH (R14). -/
def execFlush (s : State) : Host.Outcome State Fault Refusal :=
  .next (s.serveHead .flush fun q _ => s.serveFlush q)

end Sys2Proof.Machine
end

