-- ==== Sys2Proof/Machine/Selection.lean ====
section
/-! DEFINITION. The command selector of a channel (file 04) with the maintenance preference (file 05, R96): which DRAM
command or step the channel grants now, if any. -/

namespace Sys2Proof.Machine

/-- What a selector grants: a maintenance operation or step, a column command for the pool entry at a position, a
close, or an open. -/
inductive Grant
  | refresh (pullIn : Bool)
  | shortTrim
  | longTrim
  | settingsWrite
  | retentionEntry
  | column (i : Nat)
  | closeBank (b : BankIx)
  | openRow (b : BankIx) (row : Nat)
deriving DecidableEq, Repr

/-! ## Per-bank and data-bus conditions -/

/-- The per-bank conditions of a close (R53). -/
def Bank.mayClose (k : Bank) : Bool :=
  k.isOpen && !k.openMin.isRunning && !k.writeBurst && !k.writeRecovery.isRunning

/-- The per-bank conditions of an open (R49). -/
def Bank.mayOpen (k : Bank) : Bool := k.state == .closed && !k.openCycle.isRunning

/-- The channel-wide conditions of an open: open spacing (R70) and the window list (R71). -/
def Channel.opensAllowed (x : Channel) (b : Band) : Bool :=
  !x.openSpacing.isRunning && x.window.length < windowLimit b

/-- The entry is a WRITE. -/
def PoolEntry.isWrite (e : PoolEntry) : Bool :=
  match e.kind with
  | .write _ _ => true
  | .read _ => false

/-- Two entries of one pool address the same line (file 03, section 3.1). -/
def PoolEntry.sameLine (a b : PoolEntry) : Bool := a.bank == b.bank && a.row == b.row && a.col == b.col

/-- An older entry holds the entry back: the same line, and at least one of the two is a WRITE (R57). -/
def PoolEntry.heldBy (e older : PoolEntry) : Bool := older.sameLine e && (older.isWrite || e.isWrite)

/-- The data bus allows a read column command (R65, R66). -/
def Channel.busAllowsRead (x : Channel) : Bool :=
  !x.columnSpacing.isRunning && x.writeBurst.isNone && !x.writeToRead.isRunning

/-- The data bus allows a write column command (R65, R67); an earlier write burst has left the bus (log entry 8). -/
def Channel.busAllowsWrite (x : Channel) (now : Nat) : Bool :=
  !x.columnSpacing.isRunning && x.readBurst.isNone && !x.readToWrite.isRunning
    && x.issued.all (fun r => x.settings.burstTime ≤ r.expires - now) && x.writeBurst.isNone

/-- The column command of an entry is eligible, given the entries older than it (R51, R57, R65 to R67, R73, R77); the
conditions on the channel state and on maintenance are the selector's. -/
def Channel.columnEligible (x : Channel) (now : Nat) (older : List PoolEntry) (e : PoolEntry) : Bool :=
  (x.bank e.bank).state == .opened e.row
    && !(older.any e.heldBy)
    && !(older.any fun o => o.bank == e.bank && o.starved)
    && (if e.isWrite then x.busAllowsWrite now else x.busAllowsRead)

/-- Search a pool, oldest first, for the first entry that `f` answers, given the entries older than it and its
position. -/
def scanPool {α : Type} (f : List PoolEntry → Nat → PoolEntry → Option α) :
    List PoolEntry → Nat → List PoolEntry → Option α
  | _, _, [] => none
  | older, i, e :: rest =>
    match f older i e with
    | some g => some g
    | none => scanPool f (older ++ [e]) (i + 1) rest

/-- The entry is the oldest of its bank's list, given the entries older than it. -/
def oldestOfBank (older : List PoolEntry) (e : PoolEntry) : Bool := !(older.any (·.bank == e.bank))

/-! ## Maintenance (R78, R79, R95, R96, R108, R111, R120, R126, R130) -/

/-- The long trim of STARTING or WAKING is waiting to be issued (R120, R133). -/
def Channel.sequenceTrimWaits (x : Channel) : Bool :=
  (x.state == .starting || x.state == .waking) && x.seqStep == .longTrim

/-- A trim is due in the sense of R95. -/
def Channel.trimIsDue (x : Channel) : Bool := x.shortTrimDue || x.longTrimRequest || x.sequenceTrimWaits

/-- The channel state allows refresh (R63, R98): in WAKING only after retain_exit_short. -/
def Channel.refreshAllowed (x : Channel) : Bool :=
  match x.state with
  | .active | .holding | .held | .retainPending => true
  | .waking => x.seqStep != .shortExit
  | _ => false

/-- A settings write step waits: in STARTING at its step (R120), or for a RESUME with settings pending (R126). -/
def Channel.settingsWriteWaits (x : Channel) : Bool :=
  (x.state == .starting && x.seqStep == .settingsWrite)
    || (x.state == .held && x.settingsPending && (x.longCmd.map (·.command) == some .resume))

/-- A long trim may be issued: on TRIM_LONG in ACTIVE and HELD, or in the sequences (R111, R113). -/
def Channel.longTrimMay (x : Channel) : Bool :=
  ((x.state == .active || x.state == .held) && x.longTrimRequest) || x.sequenceTrimWaits

/-- A short trim may be issued (R108, R113). -/
def Channel.shortTrimMay (x : Channel) : Bool :=
  x.shortTrimDue
    && (x.state == .active || x.state == .holding || x.state == .held || x.state == .retainPending)

/-- The retention entry step may be issued, its all-closed and no-maintenance conditions apart (R130). -/
def Channel.retentionMay (x : Channel) : Bool :=
  x.state == .retainPending && x.pool.isEmpty && x.noBurst && !x.shortTrimDue && !x.urgent

/-- A non-urgent refresh (R95, second case). -/
def Channel.nonUrgentMay (x : Channel) : Bool := x.refreshAllowed && 1 ≤ x.debt && !x.urgent && !x.trimIsDue

/-- A pull-in (R95, third case). -/
def Channel.pullInMay (x : Channel) : Bool :=
  x.refreshAllowed && -7 ≤ x.debt && x.debt ≤ 0 && x.pool.isEmpty && x.noBurst && !x.trimIsDue
    && x.state != .retainPending

/-- The maintenance operation or step the channel issues when every bank is CLOSED and nothing is in progress: the
preference of R96, with the places R126 and R130 give the settings write and the retention entry. -/
def Channel.maintGrant (x : Channel) : Option Grant :=
  if x.refreshAllowed && x.urgent then some (.refresh false)
  else if x.settingsWriteWaits then some .settingsWrite
  else if x.retentionMay then some .retentionEntry
  else if x.longTrimMay && !x.urgent then some .longTrim
  else if x.shortTrimMay && !x.urgent then some .shortTrim
  else if x.nonUrgentMay then some (.refresh false)
  else if x.pullInMay then some (.refresh true)
  else none

/-! ## Opens, closes and column commands (R73 to R80) -/

/-- The channel state allows opens, closes and column commands (R63). -/
def Channel.serves (x : Channel) : Bool :=
  x.state == .active || x.state == .holding || x.state == .held || x.state == .retainPending

/-- Under a force every OPEN bank is closed as soon as it meets R53, lowest number first (R78). -/
def Channel.forcedClose (x : Channel) : Option Grant :=
  (bankIxs.find? fun b => (x.bank b).mayClose).map .closeBank

/-- The next step of a starved entry (R77), if it is the oldest starved entry of its bank and the step is eligible. -/
def Channel.starvedStep (x : Channel) (now : Nat) (b : Band) (older : List PoolEntry) (i : Nat) (e : PoolEntry) :
    Option Grant :=
  if e.starved && !(older.any fun o => o.bank == e.bank && o.starved) then
    match (x.bank e.bank).state with
    | .opened r =>
      if r = e.row then (if x.columnEligible now older e then some (.column i) else none)
      else if (x.bank e.bank).mayClose then some (.closeBank e.bank) else none
    | .closed =>
      if (x.bank e.bank).mayOpen && x.opensAllowed b then some (.openRow e.bank e.row) else none
    | _ => none
  else none

/-- A column command for a row hit (R74, item 3). -/
def Channel.hitStep (x : Channel) (now : Nat) (older : List PoolEntry) (i : Nat) (e : PoolEntry) : Option Grant :=
  if x.columnEligible now older e then some (.column i) else none

/-- Some entry of the bank's list has the bank's open row. -/
def Channel.hasHit (x : Channel) (b : BankIx) : Bool :=
  x.pool.any fun e => e.bank == b && (x.bank b).state == .opened e.row

/-- A close of kind (a): the list is not empty and holds no entry for the open row (R75). -/
def Channel.closeStep (x : Channel) (older : List PoolEntry) (_i : Nat) (e : PoolEntry) : Option Grant :=
  if oldestOfBank older e && (x.bank e.bank).mayClose && !x.hasHit e.bank then some (.closeBank e.bank) else none

/-- A close of kind (b) or (c) (R75). -/
def Channel.closeIdle (x : Channel) : Option Grant :=
  (bankIxs.find? fun b =>
    (x.bank b).mayClose && !x.hasHit b
      && ((x.bank b).holdExpired
          || ((x.state == .holding || x.state == .retainPending) && (x.bankList b).isEmpty))).map .closeBank

/-- An open for the oldest entry of a CLOSED bank (R74, item 5; R75). -/
def Channel.openStep (x : Channel) (b : Band) (older : List PoolEntry) (_i : Nat) (e : PoolEntry) : Option Grant :=
  if oldestOfBank older e && (x.bank e.bank).mayOpen && x.opensAllowed b then some (.openRow e.bank e.row) else none

/-- The first of two grants. -/
def orGrant (a b : Option Grant) : Option Grant :=
  match a with
  | some g => some g
  | none => b

/-- Items 2 to 5 of R74, or the closes of a force (R78). -/
def Channel.serveGrant (x : Channel) (now : Nat) (b : Band) : Option Grant :=
  if x.force then x.forcedClose
  else
    orGrant (scanPool (x.starvedStep now b) [] 0 x.pool)
      (orGrant (scanPool (x.hitStep now) [] 0 x.pool)
        (orGrant (scanPool x.closeStep [] 0 x.pool)
          (orGrant x.closeIdle (scanPool (x.openStep b) [] 0 x.pool))))

/-- The command the selector grants now (R62 to R64, R73, R74): none while a doze_exit wait runs or an operation is in
progress; a maintenance operation when every bank is CLOSED; else, where the state allows, the serving commands. -/
def Channel.grant (x : Channel) (now : Nat) (b : Band) : Option Grant :=
  if x.dozeExit.isRunning || x.maint.isSome then none
  else orGrant (if x.allClosed then x.maintGrant else none) (if x.serves then x.serveGrant now b else none)

/-- The command the selector of channel `c` grants in a state. -/
def State.grant (s : State) (c : Chan) : Option Grant := (s.chan c).grant s.now s.band

end Sys2Proof.Machine
end

