-- ==== Sys2Proof/Machine/Management.lean ====
section
/-! DEFINITION. MGMT_READ and the rows of MGMT_WRITE: the management tables, their fields and their write rules
(files 01, 02, 05, 06, 07, 09, 10 and 11). -/

namespace Sys2Proof.Machine

/-! ## Reading -/

/-- 1 for yes, 0 for no. -/
def yesNo (b : Bool) : Nat := if b then 1 else 0

/-- IDENT (R153). -/
def identField : Nat → Option Nat
  | 0 => some 0x2408
  | 1 => some 1
  | 2 => some 2
  | 3 => some 4
  | 4 => some 64
  | 5 => some 48
  | 6 => some 32
  | 7 => some 16
  | 8 => some 4
  | 9 => some 32
  | _ => none

/-- The tags of a stream in the tag table (R3). -/
def Intake.outstanding (x : Intake) (i : StreamIx) : Nat := x.tags.countP (·.1 == i)

/-- STREAMS (R3). -/
def State.streamsField (s : State) (i : StreamIx) : Nat → Option Nat
  | 0 => some (match (s.stream i).orderMode with | .relaxed => 0 | .strict => 1)
  | 1 => some (yesNo (s.stream i).manager)
  | 2 => some (yesNo (s.stream i).noticeTarget)
  | 3 => some (s.intake.outstanding i)
  | 4 => some (s.stream i).nextOrder.toNat
  | 5 => some (s.stream i).flushes.length
  | _ => none

/-- A region entry's field (file 02, section 2.1). -/
def Region.field (r : Region) : Nat → Option Nat
  | 0 => some (yesNo r.valid)
  | 1 => some (r.base.toNat % 4294967296)
  | 2 => some (r.base.toNat / 4294967296)
  | 3 => some (r.limit.toNat % 4294967296)
  | 4 => some (r.limit.toNat / 4294967296)
  | 5 => some r.layout
  | 6 => some r.rowBase
  | 7 => some r.streams.toNat
  | 8 => some (yesNo r.writable)
  | _ => none

/-- A layout entry's field (file 02, section 2.1). -/
def Layout.field (l : Layout) : Nat → Option Nat
  | 0 => some (match l.mode with | .ch0 => 0 | .ch1 => 1 | .split => 2)
  | 1 => some l.granuleK
  | _ => none

/-- A report as its 32-bit field: 0 while there is none (R85). -/
def reportField (v : Option Int) : Nat := (signed32 (v.getD 0)).toNat

/-- TEMPERATURE (R85). -/
def TempRecord.field (t : TempRecord) : Nat → Option Nat
  | 0 => some (reportField t.last)
  | 1 => some (yesNo t.last.isSome)
  | 2 => some t.band.code
  | 3 => some (yesNo t.stale)
  | 4 => some t.drift
  | 5 => some (reportField t.prev)
  | _ => none

/-- The code of a channel state (file 07, section 7.1). -/
def ChanState.code : ChanState → Nat
  | .uninit => 0
  | .starting => 1
  | .active => 2
  | .doze => 3
  | .holding => 4
  | .held => 5
  | .retainPending => 6
  | .retained => 7
  | .waking => 8

/-- The code of a long command (R155). -/
def LongCommand.code : LongCommand → Nat
  | .init => 1
  | .hold => 2
  | .resume => 3
  | .retain => 4
  | .wake => 5
  | .trimLong => 6

/-- The whole milliseconds until the trim timer's expiry, rounded up, at least 1; 0 when it does not run (R114; log
entry 14 for the instant of the expiry). -/
def Channel.trimRemaining (x : Channel) (now : Nat) : Nat :=
  match x.trimTimer with
  | .running _ e => max 1 ((e - now + Config.unitsPerMs - 1) / Config.unitsPerMs)
  | _ => 0

/-- CHANNEL_STATUS (R155). -/
def Channel.statusField (x : Channel) (now : Nat) : Nat → Option Nat
  | 0 => some x.state.code
  | 1 => some (signed32 x.debt).toNat
  | 2 => some (yesNo x.urgent)
  | 3 => some x.pool.length
  | 4 => some x.window.length
  | 5 => some (x.trimRemaining now)
  | 6 => some ((x.longCmd.map (·.command.code)).getD 0)
  | _ => none

/-- COUNTERS (R156). -/
def Counters.field (k : Counters) : Nat → Option Nat
  | 0 => some k.opens.toNat
  | 1 => some k.hits.toNat
  | 2 => some k.refreshes.toNat
  | 3 => some k.pullIns.toNat
  | 4 => some k.overdue.toNat
  | 5 => some k.trims.toNat
  | 6 => some k.correctedWords.toNat
  | 7 => some k.poisonedWords.toNat
  | 8 => some k.dozes.toNat
  | _ => none

/-- FAULT: every field reads 0 while nothing is recorded (R166). -/
def faultField (f : Option FaultRecord) : Nat → Option Nat
  | 0 => some (yesNo f.isSome)
  | 1 => some ((f.map (·.kind.number)).getD 0)
  | 2 => some ((f.map fun r => match r.chan with | some c => c.val | none => 2).getD 0)
  | 3 => some ((f.map (·.detail.toNat)).getD 0)
  | 4 => some ((f.map (·.count)).getD 0)
  | _ => none

/-- MAP_STATUS (R40). -/
def MapUnit.statusField (m : MapUnit) : Nat → Option Nat
  | 0 => some m.epoch.toNat
  | 1 => some m.current
  | 2 => some m.previous
  | _ => none

/-- LINK_STATUS (R179). -/
def State.linkField (s : State) : Nat → Option Nat
  | 0 => some (match s.link.state with | .down => 0 | .training => 1 | .up => 2)
  | 1 => some s.intake.queue.length
  | 2 => some s.link.granted
  | 3 => some s.link.owed
  | 4 => some s.link.respCredits
  | 5 => some s.link.replay.length
  | 6 => some s.link.attempts
  | 7 => some s.link.counters.crcErrors.toNat
  | 8 => some s.link.counters.naksSent.toNat
  | 9 => some s.link.counters.duplicates.toNat
  | 10 => some s.link.counters.outOfSequence.toNat
  | 11 => some s.link.counters.replays.toNat
  | 12 => some s.link.counters.linkResets.toNat
  | _ => none

/-- The entry of a table of one entry, 0. -/
def onlyEntry {α : Type} (entry : Nat) (x : Option α) : Option α := if entry = 0 then x else none

/-- The value of a management field, or none when the table, entry or field index names nothing (R152, R181). -/
def State.readField (s : State) (a : MgmtAddr) : Option Nat :=
  match a.table with
  | 0 => onlyEntry a.entry (identField a.field)
  | 1 => if h : a.entry < 4 then s.streamsField ⟨a.entry, h⟩ a.field else none
  | 2 => if h : a.entry < 16 then s.map.shadowRegions[a.entry].field a.field else none
  | 3 => if h : a.entry < 16 then s.map.liveRegions[a.entry].field a.field else none
  | 4 => if h : a.entry < 4 then s.map.shadowLayouts[a.entry].field a.field else none
  | 5 => if h : a.entry < 4 then s.map.liveLayouts[a.entry].field a.field else none
  | 6 => if h : a.entry < 2 then (s.chan ⟨a.entry, h⟩).settings.field a.field else none
  | 7 => onlyEntry a.entry (s.mgmt.settings.field a.field)
  | 8 => onlyEntry a.entry (s.mgmt.temp.field a.field)
  | 9 => if h : a.entry < 2 then (s.chan ⟨a.entry, h⟩).statusField s.now a.field else none
  | 10 => if h : a.entry < 2 then (s.chan ⟨a.entry, h⟩).counters.field a.field else none
  | 11 => onlyEntry a.entry (faultField s.mgmt.fault a.field)
  | 12 => onlyEntry a.entry (s.map.statusField a.field)
  | 13 => onlyEntry a.entry (s.linkField a.field)
  | _ => none

/-- The MGMT_RESP of a MGMT_READ: OK with the value, or BAD_INDEX with none (R151, R152, R181). -/
def readAnswer (v : Option Nat) : RespBody :=
  match v with
  | some n => .mgmtResp .ok (some (BitVec.ofNat 32 n))
  | none => .mgmtResp .badIndex none

/-- MGMT_READ: the field as it stands at the taking, when the packet has left the queue (R3, R151, R179). -/
def execMgmtRead (s : State) : Host.Outcome State Fault Refusal :=
  .next (s.serveManaged .mgmtRead fun q r t =>
    match r with
    | .mgmtRead a => t.answer q (readAnswer (t.readField a))
    | _ => t)

/-! ## Writing: STREAMS (R4) -/

/-- Conditions 1 to 3 of R4 for the three writable fields: entry, and value 0 or 1. -/
def streamWriteForm (a : MgmtAddr) (v : Word32) : MgmtCode :=
  if 3 < a.entry then .badIndex else if 1 < v.toNat then .badValue else .ok

/-- The stream a STREAMS entry names. -/
def streamOf (entry : Nat) : StreamIx := ⟨entry % 4, Nat.mod_lt _ (by decide)⟩

/-- The order mode a value names (file 01, section 1.2). -/
def orderModeOf (v : Word32) : OrderMode := if v = 0 then .relaxed else .strict

/-- R4 for order_mode: BUSY for a change while the stream holds a tag other than the writer's own. -/
def judgeOrderMode (q : QueuedPacket) (a : MgmtAddr) (v : Word32) (s : State) : MgmtCode :=
  let i := streamOf a.entry
  if streamWriteForm a v ≠ .ok then streamWriteForm a v
  else if (s.stream i).orderMode ≠ orderModeOf v ∧
      s.intake.tags.any (fun t => t.1 == i && t != (q.packet.stream, q.packet.tag)) = true then .busy
  else .ok

/-- An accepted write of order_mode; a change to STRICT sets next to send (R4, R143). -/
def carryOrderMode (q : QueuedPacket) (a : MgmtAddr) (v : Word32) (s : State) : State :=
  let i := streamOf a.entry
  let changed := (s.stream i).orderMode ≠ orderModeOf v
  let s1 := s.modStream i fun e => { e with orderMode := orderModeOf v }
  if changed ∧ orderModeOf v = .strict then
    let n := if q.packet.stream = i then q.order else (s.stream i).nextOrder
    s1.modRet fun r => { r with nextToSend := r.nextToSend.set i n }
  else s1

/-- ORDER_MODE_WRITE (R4). -/
def execOrderModeWrite (s : State) : Host.Outcome State Fault Refusal :=
  .next (s.serveWrite .orderModeWrite judgeOrderMode carryOrderMode)

/-- R4 for manager: BAD_VALUE when no manager stream would be left. -/
def judgeManager (_q : QueuedPacket) (a : MgmtAddr) (v : Word32) (s : State) : MgmtCode :=
  let i := streamOf a.entry
  if streamWriteForm a v ≠ .ok then streamWriteForm a v
  else if v = 0 ∧ (s.stream i).manager = true ∧
      streamIxs.any (fun j => j != i && (s.stream j).manager) = false then .badValue
  else .ok

/-- An accepted write of manager (R4). -/
def carryManager (_q : QueuedPacket) (a : MgmtAddr) (v : Word32) (s : State) : State :=
  s.modStream (streamOf a.entry) fun e => { e with manager := v != 0 }

/-- MANAGER_WRITE (R4). -/
def execManagerWrite (s : State) : Host.Outcome State Fault Refusal :=
  .next (s.serveWrite .managerWrite judgeManager carryManager)

/-- R4 for notice_target: BAD_VALUE for a 0 to the target itself. -/
def judgeNoticeTarget (_q : QueuedPacket) (a : MgmtAddr) (v : Word32) (s : State) : MgmtCode :=
  if streamWriteForm a v ≠ .ok then streamWriteForm a v
  else if v = 0 ∧ (s.stream (streamOf a.entry)).noticeTarget = true then .badValue
  else .ok

/-- One entry of the stream table with notice_target yes exactly when it is the target's. -/
def retargetEntry (i : StreamIx) (t : Vector StreamEntry 4) (j : StreamIx) : Vector StreamEntry 4 :=
  t.set j { t[j] with noticeTarget := j == i }

/-- The stream table with notice_target on one entry and off the others (R4). -/
def Intake.retarget (x : Intake) (i : StreamIx) : Intake :=
  { x with streams := streamIxs.foldl (retargetEntry i) x.streams }

/-- An accepted write of notice_target: 1 moves the target, 0 changes nothing (R4). -/
def carryNoticeTarget (_q : QueuedPacket) (a : MgmtAddr) (v : Word32) (s : State) : State :=
  if v = 0 then s else s.modIntake fun x => x.retarget (streamOf a.entry)

/-- NOTICE_TARGET_WRITE (R4). -/
def execNoticeTargetWrite (s : State) : Host.Outcome State Fault Refusal :=
  .next (s.serveWrite .noticeTargetWrite judgeNoticeTarget carryNoticeTarget)

/-! ## Writing: the map tables (R23) -/

/-- The entry and field index lie in a map table: tables 2 and 3 are the region tables, 4 and 5 the layout tables. -/
def mapIndexOk (a : MgmtAddr) : Bool :=
  if a.table ≤ 3 then a.entry ≤ 15 && a.field ≤ 8 else a.entry ≤ 3 && a.field ≤ 1

/-- The value lies in the field's range (file 02, section 2.1). -/
def mapValueOk (a : MgmtAddr) (v : Nat) : Bool :=
  if a.table ≤ 3 then
    match a.field with
    | 0 | 8 => v ≤ 1
    | 2 | 4 => v ≤ 255
    | 5 => v ≤ 7
    | 6 => v ≤ 65535
    | 7 => v ≤ 15
    | _ => true
  else
    match a.field with
    | 0 => v ≤ 2
    | _ => v ≤ 6

/-- The judgment of a map table write (R23). -/
def judgeMapTable (_q : QueuedPacket) (a : MgmtAddr) (v : Word32) (_s : State) : MgmtCode :=
  if mapIndexOk a = false then .badIndex
  else if a.table = 3 ∨ a.table = 5 then .readOnlyField
  else if mapValueOk a v.toNat = false then .badValue
  else .ok

/-- A region entry with a field replaced. -/
def Region.withField (r : Region) (i v : Nat) : Region :=
  match i with
  | 0 => { r with valid := v == 1 }
  | 1 => { r with base := BitVec.ofNat 40 (r.base.toNat / 4294967296 * 4294967296 + v) }
  | 2 => { r with base := BitVec.ofNat 40 (v * 4294967296 + r.base.toNat % 4294967296) }
  | 3 => { r with limit := BitVec.ofNat 40 (r.limit.toNat / 4294967296 * 4294967296 + v) }
  | 4 => { r with limit := BitVec.ofNat 40 (v * 4294967296 + r.limit.toNat % 4294967296) }
  | 5 => { r with layout := v }
  | 6 => { r with rowBase := v }
  | 7 => { r with streams := BitVec.ofNat 4 v }
  | 8 => { r with writable := v == 1 }
  | _ => r

/-- A layout entry with a field replaced. -/
def Layout.withField (l : Layout) (i v : Nat) : Layout :=
  match i with
  | 0 => { l with mode := if v = 0 then .ch0 else if v = 1 then .ch1 else .split }
  | 1 => { l with granuleK := v }
  | _ => l

/-- An accepted write is stored in the shadow copy (R23). -/
def carryMapTable (_q : QueuedPacket) (a : MgmtAddr) (v : Word32) (s : State) : State :=
  s.modMap fun m =>
    if a.table = 2 then
      if h : a.entry < 16 then
        { m with shadowRegions := m.shadowRegions.set a.entry (m.shadowRegions[a.entry].withField a.field v.toNat) }
      else m
    else if a.table = 4 then
      if h : a.entry < 4 then
        { m with shadowLayouts := m.shadowLayouts.set a.entry (m.shadowLayouts[a.entry].withField a.field v.toNat) }
      else m
    else m

/-- MAP_TABLE_WRITE (R23). -/
def execMapTableWrite (s : State) : Host.Outcome State Fault Refusal :=
  .next (s.serveWrite .mapTableWrite judgeMapTable carryMapTable)

/-! ## Writing: the channel settings (R122, R123) -/

/-- The channel an entry of a two-entry table names. -/
def chanAt (entry : Nat) : Chan := ⟨entry % 2, Nat.mod_lt _ (by decide)⟩

/-- The channel state allows its settings to be written (R122). -/
def settingsWritable (st : ChanState) : Bool := st == .uninit || st == .held

/-- Conditions 1 to 4 of R122. -/
def judgeSetting (_q : QueuedPacket) (a : MgmtAddr) (v : Word32) (s : State) : MgmtCode :=
  let x := s.chan (chanAt a.entry)
  if 1 < a.entry ∨ 22 < a.field then .badIndex
  else if settingsWritable x.state = false then .notHeld
  else if x.longCmd.isSome = true then .busy
  else if settingInRange a.field v.toNat = false then .badValue
  else .ok

/-- A live footprint on the channel reaches the new row count or beyond (R123). -/
def State.geometryConflict (s : State) (c : Chan) (rows : Nat) : Bool :=
  (validRegions s.map.liveRegions).any fun r => beyondRows s.map.liveLayouts r c rows

/-- The five conditions of R122 for rows_per_bank. -/
def judgeRows (q : QueuedPacket) (a : MgmtAddr) (v : Word32) (s : State) : MgmtCode :=
  if judgeSetting q a v s ≠ .ok then judgeSetting q a v s
  else if s.geometryConflict (chanAt a.entry) v.toNat = true then .geometryConflict
  else .ok

/-- A setting is stored; a change sets settings_pending (R122). -/
def Channel.storeSetting (x : Channel) (i v : Nat) : Channel :=
  { x with settings := x.settings.withField i v
           settingsPending := x.settingsPending || x.settings.field i != some v }

/-- An accepted write of a channel setting (R122). -/
def carrySetting (_q : QueuedPacket) (a : MgmtAddr) (v : Word32) (s : State) : State :=
  s.modChan (chanAt a.entry) fun x => x.storeSetting a.field v.toNat

/-- CHANNEL_SETTINGS_WRITE (R122). -/
def execChannelSettingsWrite (s : State) : Host.Outcome State Fault Refusal :=
  .next (s.serveWrite .channelSettingsWrite judgeSetting carrySetting)

/-- ROWS_PER_BANK_WRITE (R122, R123). -/
def execRowsPerBankWrite (s : State) : Host.Outcome State Fault Refusal :=
  .next (s.serveWrite .rowsPerBankWrite judgeRows carrySetting)

/-! ## Writing: the maintenance settings (R104, R154) -/

/-- The judgment of a maintenance write: index, range, and the condition of R104 on trim_min_ms and trim_max_ms (R154). -/
def judgeMaintenance (_q : QueuedPacket) (a : MgmtAddr) (v : Word32) (s : State) : MgmtCode :=
  if a.entry ≠ 0 ∨ 9 < a.field then .badIndex
  else if maintInRange a.field v.toNat = false then .badValue
  else if a.field = 5 ∧ s.mgmt.settings.trimMaxMs < v.toNat then .badValue
  else if a.field = 6 ∧ v.toNat < s.mgmt.settings.trimMinMs then .badValue
  else .ok

/-- A maintenance setting is stored. -/
def State.storeMaintenance (s : State) (i v : Nat) : State :=
  s.modMgmt fun m => { m with settings := m.settings.withField i v }

/-- urgency_threshold: both accounts re-evaluate urgent at once, which may begin or end a force (R94). It changes no condition
of a hold drain (R125) or of idleness (R127). -/
def carryUrgencyThreshold (_q : QueuedPacket) (a : MgmtAddr) (v : Word32) (s : State) : State :=
  let f := fun x : Channel => x.judgeUrgent v.toNat
  ((s.storeMaintenance a.field v.toNat).modChan 0 f).modChan 1 f

/-- URGENCY_THRESHOLD_WRITE (R94, R154). -/
def execUrgencyThresholdWrite (s : State) : Host.Outcome State Fault Refusal :=
  .next (s.serveWrite .urgencyThresholdWrite judgeMaintenance carryUrgencyThreshold)

/-- A trim input: both channels recompute their trim interval (R104, R106). -/
def carryTrimSetting (_q : QueuedPacket) (a : MgmtAddr) (v : Word32) (s : State) : State :=
  (s.storeMaintenance a.field v.toNat).recomputeTrims

/-- TRIM_SETTINGS_WRITE (R104). -/
def execTrimSettingsWrite (s : State) : Host.Outcome State Fault Refusal :=
  .next (s.serveWrite .trimSettingsWrite judgeMaintenance carryTrimSetting)

/-- notice_enable: every pending pair of a kind it leaves out is removed, and an emptied set ends the notice wait
(R162). -/
def carryNoticeEnable (_q : QueuedPacket) (a : MgmtAddr) (v : Word32) (s : State) : State :=
  let left := s.mgmt.notices.filter fun n => noticeEnabled v.toNat n.kind
  ((s.storeMaintenance a.field v.toNat).modMgmt fun m => { m with notices := left }).modRet
    fun r => { r with noticeWait := if left.isEmpty then 0 else r.noticeWait }

/-- NOTICE_ENABLE_WRITE (R154, R162). -/
def execNoticeEnableWrite (s : State) : Host.Outcome State Fault Refusal :=
  .next (s.serveWrite .noticeEnableWrite judgeMaintenance carryNoticeEnable)

/-! ## Writing: the temperature report (R86 to R88) -/

/-- The judgment of a report (R86): field 0 of entry 0, and −80 to 254. -/
def judgeReport (_q : QueuedPacket) (a : MgmtAddr) (v : Word32) (_s : State) : MgmtCode :=
  if a.entry ≠ 0 ∨ 5 < a.field then .badIndex
  else if v.toInt < -80 ∨ 254 < v.toInt then .badValue
  else .ok

/-- The record after a report of `v` at millisecond count `ms`: steps 1 to 4 of R87. -/
def TempRecord.report (t : TempRecord) (v : Int) (ms now staleMs : Nat) : TempRecord :=
  let prevTime := if t.last.isSome then t.lastTime else t.prevTime
  { t with
    prev := t.last
    prevTime := prevTime
    last := some v
    lastTime := ms
    drift := match t.last with
      | none => 0
      | some p => driftOf v p (ms - prevTime)
    stale := false
    staleTimer := Timer.start now (staleMs * Config.unitsPerMs) }

/-- The band of a report is set and a change to OVER raises TEMP_OVER: step 5 of R87 (R88). -/
def State.reportBand (s : State) (v : Int) : State :=
  let s1 := s.setBand (bandOf v)
  if s.band ≠ .over ∧ bandOf v = .over then s1.raiseNotice ⟨.tempOver, none, signed32 v⟩ else s1

/-- A report is taken (R87); the drift is delivered last. -/
def State.takeReport (s : State) (v : Int) : State :=
  let s1 := s.modMgmt fun m => { m with temp := m.temp.report v s.millis s.now m.settings.staleTimeoutMs }
  (s1.reportBand v).recomputeTrims

/-- An accepted report (R87). -/
def carryReport (_q : QueuedPacket) (_a : MgmtAddr) (v : Word32) (s : State) : State := s.takeReport v.toInt

/-- TEMPERATURE_REPORT (R86, R87). -/
def execTemperatureReport (s : State) : Host.Outcome State Fault Refusal :=
  .next (s.serveWrite .temperatureReport judgeReport carryReport)

/-! ## Writing: every other field (R152, R154) -/

/-- The judgment of a write to a field with no row of its own: trim_grace_us and stale_timeout_ms are judged as
maintenance settings (R154); any other field that exists is read-only (R4, R40, R86, R152, R179); an address that names
nothing is BAD_INDEX (R152, R181). -/
def judgeOther (q : QueuedPacket) (a : MgmtAddr) (v : Word32) (s : State) : MgmtCode :=
  if a.table = 7 then judgeMaintenance q a v s
  else if (s.readField a).isSome = true then .readOnlyField
  else .badIndex

/-- An accepted write of trim_grace_us or stale_timeout_ms is stored; it takes effect at the next start of its timer
(R89, R104). -/
def carryOther (_q : QueuedPacket) (a : MgmtAddr) (v : Word32) (s : State) : State :=
  s.storeMaintenance a.field v.toNat

/-- MGMT_WRITE (R151, R152, R154). -/
def execMgmtWrite (s : State) : Host.Outcome State Fault Refusal :=
  .next (s.serveWrite .mgmtWrite judgeOther carryOther)

end Sys2Proof.Machine
end

