-- ==== Sys2Proof/Machine/Commands.lean ====
section
/-! DEFINITION. The MGMT_COMMANDs at the head of the ingress queue: the six channel commands (file 07), the five
device-wide commands (files 02 and 09) and the unknown code (R157). -/

namespace Sys2Proof.Machine

/-! ## Channel commands (R117, R118) -/

/-- The channel states in which a command is accepted (R117). -/
def acceptedIn (command : LongCommand) (st : ChanState) : Bool :=
  match command with
  | .init => st == .uninit || st == .held
  | .hold => st == .active || st == .doze
  | .resume => st == .held
  | .retain => st == .active || st == .doze
  | .wake => st == .retained || st == .active || st == .doze
  | .trimLong => st == .active || st == .doze || st == .held

/-- The command validates the channel settings (R121). -/
def validatesSettings (command : LongCommand) : Bool := command == .init || command == .resume

/-- The judgment of a channel command on a channel (R117, conditions 2 to 4). -/
def Channel.judgeCommand (x : Channel) (command : LongCommand) : MgmtCode :=
  if x.longCmd.isSome then .busy
  else if acceptedIn command x.state = false then .badState
  else if validatesSettings command = true ∧ x.settings.invalid = true then .badTiming
  else .ok

/-- A channel command is judged (R117) and, when it passes, accepted. -/
def State.channelCommand (s : State) (q : QueuedPacket) (ch : Nat) (command : LongCommand)
    (accept : Chan → State → State) : State :=
  match chanOf ch with
  | none => s.answerCode q .badIndex
  | some c =>
    match (s.chan c).judgeCommand command with
    | .ok => accept c s
    | code => s.answerCode q code

/-- The entry to STARTING (R119, R98, R113); the DRAM contents are undefined after INIT (R120). -/
def Channel.enterStarting (x : Channel) (now : Nat) : Channel :=
  { x.stopAccount.stopTrim.loseContents with
    state := .starting
    seqStep := .powerup
    powerupWait := Timer.start now (x.settings.powerupWait * Config.unitsPerUs) }

/-- INIT is accepted (R119). -/
def acceptInit (q : QueuedPacket) (c : Chan) (s : State) : State :=
  ((s.beginLong c q .init).modChan c fun x => x.enterStarting s.now).settle c

/-- INIT (R117, R119). -/
def execInit (s : State) : Host.Outcome State Fault Refusal :=
  .next (s.serveCommand .init fun q ch _ t => t.channelCommand q ch .init (acceptInit q))

/-- A drain begins: the channel enters `st`, leaving DOZE first if it dozes (R124, R129). -/
def Channel.beginDrain (x : Channel) (now : Nat) (st : ChanState) : Channel :=
  if x.state = .doze then x.leaveDoze now st else { x with state := st }

/-- HOLD is accepted; the drain may be complete at once (R124, R125). -/
def acceptHold (q : QueuedPacket) (c : Chan) (s : State) : State :=
  ((s.beginLong c q .hold).modChan c fun x => x.beginDrain s.now .holding).settle c

/-- HOLD (R117, R124). -/
def execHold (s : State) : Host.Outcome State Fault Refusal :=
  .next (s.serveCommand .hold fun q ch _ t => t.channelCommand q ch .hold (acceptHold q))

/-- RESUME is accepted: ACTIVE at once, or after a settings write step when settings are pending (R126). -/
def acceptResume (q : QueuedPacket) (c : Chan) (s : State) : State :=
  if (s.chan c).settingsPending then (s.beginLong c q .resume).settle c
  else ((s.modChan c fun x => { x with state := .active }).answerCode q .ok).settle c

/-- RESUME (R117, R126). -/
def execResume (s : State) : Host.Outcome State Fault Refusal :=
  .next (s.serveCommand .resume fun q ch _ t => t.channelCommand q ch .resume (acceptResume q))

/-- RETAIN is accepted (R129). -/
def acceptRetain (q : QueuedPacket) (c : Chan) (s : State) : State :=
  ((s.beginLong c q .retain).modChan c fun x => x.beginDrain s.now .retainPending).settle c

/-- RETAIN (R117, R129). -/
def execRetain (s : State) : Host.Outcome State Fault Refusal :=
  .next (s.serveCommand .retain fun q ch _ t => t.channelCommand q ch .retain (acceptRetain q))

/-- WAKE is accepted: a wake from RETAINED, no change in ACTIVE and DOZE (R132). -/
def acceptWake (q : QueuedPacket) (c : Chan) (s : State) : State :=
  if (s.chan c).state = .retained then
    ((s.beginLong c q .wake).modChan c fun x => x.beginWake s.now).settle c
  else s.answerCode q .ok

/-- WAKE (R117, R132). -/
def execWake (s : State) : Host.Outcome State Fault Refusal :=
  .next (s.serveCommand .wake fun q ch _ t => t.channelCommand q ch .wake (acceptWake q))

/-- The long-trim-due request becomes pending, and a doze ends (R112, R134). -/
def Channel.requestLongTrim (x : Channel) (now : Nat) : Channel :=
  let y := { x with longTrimRequest := true }
  if x.state = .doze then y.leaveDoze now .active else y

/-- TRIM_LONG is accepted (R112, R134). -/
def acceptTrimLong (q : QueuedPacket) (c : Chan) (s : State) : State :=
  ((s.beginLong c q .trimLong).modChan c fun x => x.requestLongTrim s.now).settle c

/-- TRIM_LONG (R112, R117). -/
def execTrimLong (s : State) : Host.Outcome State Fault Refusal :=
  .next (s.serveCommand .trimLong fun q ch _ t => t.channelCommand q ch .trimLong (acceptTrimLong q))

/-! ## COMMIT_MAP and COPY_LIVE_TO_SHADOW (R31 to R35) -/

/-- Some valid shadow region reaches beyond its channel's rows (R34). -/
def State.outOfRows (s : State) (rs : List Region) : Bool :=
  rs.any fun r => chanIxs.any fun c => beyondRows s.map.shadowLayouts r c (s.chan c).settings.rowsPerBank

/-- Two valid shadow regions share a row on a channel (R34). -/
def State.aliased (s : State) (rs : List Region) : Bool :=
  anyPair (fun r q => chanIxs.any fun c => aliasesOn s.map.shadowLayouts r q c) rs

/-- The judgment of COMMIT_MAP: the first condition that holds gives the code (R32). -/
def State.judgeCommit (s : State) : MgmtCode :=
  let rs := validRegions s.map.shadowRegions
  if s.map.previous ≠ 0 then .busy
  else if rs.any Region.badLayout then .badLayout
  else if anyPair Region.overlaps rs then .overlap
  else if s.outOfRows rs then .outOfRows
  else if s.aliased rs then .alias_
  else .ok

/-- The Map Unit after a commit (R35). -/
def MapUnit.commit (m : MapUnit) : MapUnit :=
  { m with liveRegions := m.shadowRegions, liveLayouts := m.shadowLayouts,
           epoch := m.epoch + 1, previous := m.current, current := 0 }

/-- A commit that passes is carried out; an epoch with nothing outstanding has drained at once (R35, R39). -/
def State.commitMap (s : State) : State :=
  let s1 := s.modMap MapUnit.commit
  if s.map.current = 0 then s1.raiseDrained else s1

/-- COMMIT_MAP (R32, R35). -/
def execCommitMap (s : State) : Host.Outcome State Fault Refusal :=
  .next (s.serveCommand .commitMap fun q _ _ t =>
    (if t.judgeCommit = .ok then t.commitMap else t).answerCode q t.judgeCommit)

/-- The live tables are copied to the shadow tables (R31). -/
def MapUnit.copyLive (m : MapUnit) : MapUnit :=
  { m with shadowRegions := m.liveRegions, shadowLayouts := m.liveLayouts }

/-- COPY_LIVE_TO_SHADOW (R31). -/
def execCopyLiveToShadow (s : State) : Host.Outcome State Fault Refusal :=
  .next (s.serveCommand .copyLiveToShadow fun q _ _ t => (t.modMap MapUnit.copyLive).answerCode q .ok)

/-! ## CLEAR_FAULT, CLEAR_COUNTERS, FUNCTION_RESET -/

/-- CLEAR_FAULT empties the fault record (R165). -/
def execClearFault (s : State) : Host.Outcome State Fault Refusal :=
  .next (s.serveCommand .clearFault fun q _ _ t =>
    (t.modMgmt fun m => { m with fault := none }).answerCode q .ok)

/-- A channel's counters are set to 0. -/
def Channel.clearCounters (x : Channel) : Channel := { x with counters := countersAtReset }

/-- The counters of the channels of a set are cleared: 1 channel 0, 2 channel 1, 3 both (R156). -/
def State.clearCounters (s : State) (set : Nat) : State :=
  let s1 := if set.testBit 0 then s.modChan 0 Channel.clearCounters else s
  if set.testBit 1 then s1.modChan 1 Channel.clearCounters else s1

/-- The set of channels CLEAR_COUNTERS names: both when its argument is absent, none for 0 and above 3 (R156). -/
def counterSet (arg : Option Word32) : Option Nat :=
  match arg with
  | none => some 3
  | some v => if 1 ≤ v.toNat ∧ v.toNat ≤ 3 then some v.toNat else none

/-- CLEAR_COUNTERS (R156). -/
def execClearCounters (s : State) : Host.Outcome State Fault Refusal :=
  .next (s.serveCommand .clearCounters fun q _ arg t =>
    match counterSet arg with
    | some set => (t.clearCounters set).answerCode q .ok
    | none => t.answerCode q .badValue)

/-- Steps 1 and 2 of R159: notices, fault record and counters are emptied. -/
def State.clearRecords (s : State) : State :=
  (s.modMgmt fun m => { m with notices := [], fault := none }).clearCounters 3

/-- Step 3 of R159: the Intake is reset but for the command's own tag, and each freed slot returns a credit (R21). -/
def State.resetIntake (s : State) (q : QueuedPacket) : State :=
  (s.emptyIntake [(q.packet.stream, q.packet.tag)]).modLink
    fun l => { l with owed := l.owed + s.intake.queue.length }

/-- Step 5 of R159: the Return Unit is reset, with the command's stream set to send the command's MGMT_RESP next
(R150). -/
def State.resetReturn (s : State) (q : QueuedPacket) : State :=
  s.emptyReturn.modRet fun r => { r with nextToSend := r.nextToSend.set q.packet.stream q.order }

/-- FUNCTION_RESET accepted: the six steps of R159 in order. -/
def State.functionReset (s : State) (q : QueuedPacket) : State :=
  let s1 := s.clearRecords.resetIntake q
  let s2 := ((s1.discardPool 0).discardPool 1).resetReturn q
  (s2.handOver ⟨q.packet.stream, q.packet.tag, q.order, .mgmtResp .ok none, true⟩).settleAll

/-- FUNCTION_RESET: refused BUSY while a long command runs on either channel (R159). -/
def execFunctionReset (s : State) : Host.Outcome State Fault Refusal :=
  .next (s.serveCommand .functionReset fun q _ _ t =>
    if (t.chan 0).longCmd.isSome || (t.chan 1).longCmd.isSome then t.answerCode q .busy
    else t.functionReset q)

/-- UNKNOWN_COMMAND_CODE: BAD_INDEX and no other effect (R157, R181). -/
def execUnknownCommandCode (s : State) : Host.Outcome State Fault Refusal :=
  .next (s.serveCommand .unknownCommandCode fun q _ _ t => t.answerCode q .badIndex)

end Sys2Proof.Machine
end

