-- ==== Sys2Proof/Machine/DramCommands.lean ====
section
/-! DEFINITION. The DRAM commands and steps that a channel's selector issues (files 03 to 07). Each acts when the
selector grants it now (Machine/Selection.lean), and changes nothing otherwise (log entry 1). -/

namespace Sys2Proof.Machine

/-- The selector of channel `c` grants `g`: its effect on the channel, and the channel settles. -/
def State.issueOn (s : State) (c : Chan) (f : Channel → Channel) : State := (s.modChan c f).settle c

/-! ## OPEN and CLOSE -/

/-- A bank at its open (R49). -/
def Bank.open_ (k : Bank) (now row : Nat) (x : Settings) : Bank :=
  { k with
    state := .opening row
    transition := Timer.start now x.openToAccess
    openMin := Timer.start now x.openMin
    openCycle := Timer.start now x.openCycle
    holdExpired := false
    columnSinceOpen := false }

/-- A channel at an open: the bank, open spacing (R70), the window list (R71) and the opens counter (R81). -/
def Channel.issueOpen (x : Channel) (now : Nat) (b : BankIx) (row : Nat) : Channel :=
  { (((x.modBank b fun k => k.open_ now row x.settings).count
      fun k => { k with opens := bump k.opens }).issue (.openRow b row)) with
    openSpacing := Timer.start now x.settings.openSpacing
    window := x.window ++ [⟨now, now + x.settings.windowTime⟩] }

/-- OPEN (R49, R70, R71). -/
def execOpenRow (c : Chan) (s : State) : Host.Outcome State Fault Refusal :=
  .next (match s.grant c with
  | some (.openRow b row) => s.issueOn c fun x => x.issueOpen s.now b row
  | _ => s)

/-- The row a bank has, if any. -/
def BankState.row : BankState → Option Nat
  | .closed => none
  | .opening r | .opened r | .closing r => some r

/-- A bank at its close (R53). -/
def Bank.close (k : Bank) (now : Nat) (x : Settings) : Bank :=
  { k with
    state := .closing (k.state.row.getD 0)
    transition := Timer.start now x.closeTime
    rowHold := .stopped
    holdExpired := false }

/-- A channel at a close. -/
def Channel.issueClose (x : Channel) (now : Nat) (b : BankIx) : Channel :=
  (x.modBank b fun k => k.close now x.settings).issue (.closeBank b)

/-- CLOSE (R53, R75, R77, R78). -/
def execCloseBank (c : Chan) (s : State) : Host.Outcome State Fault Refusal :=
  .next (match s.grant c with
  | some (.closeBank b) => s.issueOn c fun x => x.issueClose s.now b
  | _ => s)

/-! ## Column commands -/

/-- An entry passed over by a younger one of its bank: bypass_count gains 1 up to 8, and at 8 the entry is starved
(R76). -/
def PoolEntry.passOver (e : PoolEntry) : PoolEntry :=
  let n := if e.bypass < Config.starveAt then e.bypass + 1 else Config.starveAt
  { e with bypass := n, starved := e.starved || n == Config.starveAt }

/-- The pool after the entry `e` at position `i` left it: every older entry of its bank was passed over (R47, R76). -/
def poolAfter (pool : List PoolEntry) (i : Nat) (e : PoolEntry) : List PoolEntry :=
  (pool.take i).map (fun o => if o.bank = e.bank then o.passOver else o) ++ pool.drop (i + 1)

/-- What every column command does to its channel: the pool (R47, R76), column spacing (R65), the hits counter (R81) and
row_hold when the bank's list is empty (R55). -/
def Channel.issueColumn (x : Channel) (now i : Nat) (e : PoolEntry) : Channel :=
  let hit := (x.bank e.bank).columnSinceOpen
  ((({ x with
      pool := poolAfter x.pool i e
      columnSpacing := Timer.start now x.settings.burstTime }.modBank e.bank
      fun k => { k with columnSinceOpen := true }).count
      fun k => { k with hits := if hit then bump k.hits else k.hits })).startRowHold now e.bank

/-- The read of a READ entry (R68): what changed in the line stays in the DRAM, and the return timer starts with the
eight stored words. -/
def Channel.issueRead (x : Channel) (c : Chan) (now : Nat) (e : PoolEntry) (slot : SlotIx) (cs : List CellChange) :
    Channel :=
  let y := x.applyChanges c e.bank e.row e.col cs
  { (y.issue (.readColumn e.bank e.col)) with
    issued := y.issued ++ [⟨slot, y.storedLine c e.bank e.row e.col, now + y.settings.readReturn⟩] }

/-- READ_COLUMN_COMMAND (R47, R51, R65, R66, R68). -/
def execReadColumnCommand (c : Chan) (cs : List CellChange) (s : State) : Host.Outcome State Fault Refusal :=
  .next (match s.grant c with
  | some (.column i) =>
    match (s.chan c).pool[i]? with
    | some e =>
      match e.kind with
      | .read slot => s.issueOn c fun x => (x.issueColumn s.now i e).issueRead c s.now e slot cs
      | .write _ _ => s
    | none => s
  | _ => s)

/-- The write of a WRITE entry (R69): the enabled words go to the DRAM, and the write burst begins. -/
def Channel.issueWrite (x : Channel) (now : Nat) (e : PoolEntry) (data : Line) (enable : BitVec 8) : Channel :=
  { ((x.storeLine e.bank e.row e.col data enable).modBank e.bank fun k => { k with writeBurst := true }).issue
      (.writeColumn e.bank e.col) with
    writeBurst := some ⟨e.bank, e.stream, e.tag, e.order, e.epoch, false, now + x.settings.burstTime⟩ }

/-- WRITE_DONE is handed over, and the write is reported to the Intake (R15, R47, R141). -/
def State.reportIssue (s : State) (c : Chan) (e : PoolEntry) : State :=
  (s.handOver ⟨e.stream, e.tag, e.order, .writeDone e.epoch c, false⟩).reportWrite e.stream e.order

/-- WRITE_COLUMN_COMMAND (R15, R47, R51, R65, R67, R69). -/
def execWriteColumnCommand (c : Chan) (s : State) : Host.Outcome State Fault Refusal :=
  .next (match s.grant c with
  | some (.column i) =>
    match (s.chan c).pool[i]? with
    | some e =>
      match e.kind with
      | .write d en => (s.issueOn c fun x => (x.issueColumn s.now i e).issueWrite s.now e d en).reportIssue c e
      | .read _ => s
    | none => s
  | _ => s)

/-! ## Maintenance operations and steps -/

/-- An operation occupies the channel from its issue (R64). -/
def Channel.occupy (x : Channel) (now d : Nat) (op : MaintOp) (cmd : DramCommand) : Channel :=
  { x.issue cmd with maint := some ⟨op, now + d⟩ }

/-- A refresh is issued: the refreshes counter, and the pull_ins counter for a pull-in (R95, R97). -/
def Channel.issueRefresh (x : Channel) (now : Nat) (pullIn : Bool) : Channel :=
  (x.occupy now x.settings.refreshTime .refresh .refresh).count fun k =>
    { k with refreshes := bump k.refreshes, pullIns := if pullIn then bump k.pullIns else k.pullIns }

/-- REFRESH (R95 to R97). -/
def execRefresh (c : Chan) (s : State) : Host.Outcome State Fault Refusal :=
  .next (match s.grant c with
  | some (.refresh p) => s.issueOn c fun x => x.issueRefresh s.now p
  | _ => s)

/-- A short trim is issued: the grace timer stops, and the trims counter counts (R108). -/
def Channel.issueShortTrim (x : Channel) (now : Nat) : Channel :=
  ({ x.occupy now x.settings.trimShort .shortTrim .shortTrim with graceTimer := .stopped }).count
    fun k => { k with trims := bump k.trims }

/-- SHORT_TRIM (R108). -/
def execShortTrim (c : Chan) (s : State) : Host.Outcome State Fault Refusal :=
  .next (match s.grant c with
  | some .shortTrim => s.issueOn c fun x => x.issueShortTrim s.now
  | _ => s)

/-- A long trim is issued: the trim and grace timers stop, and the trims counter counts (R111). -/
def Channel.issueLongTrim (x : Channel) (now : Nat) : Channel :=
  ({ x.occupy now x.settings.trimLong .longTrim .longTrim with
      trimTimer := .stopped, graceTimer := .stopped }).count fun k => { k with trims := bump k.trims }

/-- LONG_TRIM (R111). -/
def execLongTrim (c : Chan) (s : State) : Host.Outcome State Fault Refusal :=
  .next (match s.grant c with
  | some .longTrim => s.issueOn c fun x => x.issueLongTrim s.now
  | _ => s)

/-- The settings write step is issued: settings_pending becomes no (R120, R126). -/
def Channel.issueSettingsWrite (x : Channel) (now : Nat) : Channel :=
  { x.occupy now x.settings.settleTime .settingsWrite .settingsWrite with settingsPending := false }

/-- SETTINGS_WRITE_STEP (R120, R126). -/
def execSettingsWriteStep (c : Chan) (s : State) : Host.Outcome State Fault Refusal :=
  .next (match s.grant c with
  | some .settingsWrite => s.issueOn c fun x => x.issueSettingsWrite s.now
  | _ => s)

/-- The retention entry step: the channel enters RETAINED, its account and trim timers stopped (R130, R98, R113). -/
def Channel.enterRetained (x : Channel) : Channel :=
  { x.stopAccount.stopTrim.issue .retentionEntry with state := .retained }

/-- RETENTION_ENTRY_STEP: RETAIN is answered OK (R130). -/
def execRetentionEntryStep (c : Chan) (s : State) : Host.Outcome State Fault Refusal :=
  .next (match s.grant c with
  | some .retentionEntry => (s.issueOn c Channel.enterRetained).endLong c .ok
  | _ => s)

end Sys2Proof.Machine
end

