-- ==== Sys2Proof/Machine/Expiries.lean ====
section
/-! DEFINITION. Timer expiries, burst ends and completions (files 03 to 08). Each acts when its timer runs and has
reached its expiry, and changes nothing otherwise (log entry 1). -/

namespace Sys2Proof.Machine

/-- A bank's timer expires: `f` on the bank, if the timer runs and is due. -/
def State.bankExpiry (s : State) (c : Chan) (b : BankIx) (t : Bank → Timer) (f : Bank → Bank) : State :=
  if (t ((s.chan c).bank b)).due s.now then s.modChan c fun x => x.modBank b f else s

/-- A channel's timer expires: `f` on the channel, if the timer runs and is due. -/
def State.chanExpiry (s : State) (c : Chan) (t : Channel → Timer) (f : Channel → Channel) : State :=
  if (t (s.chan c)).due s.now then s.modChan c f else s

/-! ## Bank timers -/

/-- OPENING becomes OPEN; any other state stays (R50). -/
def BankState.toOpen : BankState → BankState
  | .opening r => .opened r
  | st => st

/-- A bank that is OPENING, with its transition timer due. -/
def Bank.openDue (k : Bank) (now : Nat) : Bool :=
  k.transition.due now && (match k.state with | .opening _ => true | _ => false)

/-- A bank that is CLOSING, with its transition timer due. -/
def Bank.closeDue (k : Bank) (now : Nat) : Bool :=
  k.transition.due now && (match k.state with | .closing _ => true | _ => false)

/-- OPEN_TO_ACCESS_EXPIRY: the bank becomes OPEN, and row_hold starts if its list is empty (R50, R55). -/
def execOpenToAccessExpiry (c : Chan) (b : BankIx) (s : State) : Host.Outcome State Fault Refusal :=
  .next (if ((s.chan c).bank b).openDue s.now then
    s.modChan c fun x =>
      (x.modBank b fun k => { k with state := k.state.toOpen, transition := .stopped }).startRowHold s.now b
  else s)

/-- CLOSE_TIME_EXPIRY: the bank becomes CLOSED and its row absent; a drain may complete and idleness begin (R54, R125,
R127). -/
def execCloseTimeExpiry (c : Chan) (b : BankIx) (s : State) : Host.Outcome State Fault Refusal :=
  .next (if ((s.chan c).bank b).closeDue s.now then
    (s.modChan c fun x => x.modBank b fun k => { k with state := .closed, transition := .stopped }).settle c
  else s)

/-- OPEN_MIN_EXPIRY (R53). -/
def execOpenMinExpiry (c : Chan) (b : BankIx) (s : State) : Host.Outcome State Fault Refusal :=
  .next (s.bankExpiry c b (·.openMin) fun k => { k with openMin := .expired })

/-- OPEN_CYCLE_EXPIRY (R49). -/
def execOpenCycleExpiry (c : Chan) (b : BankIx) (s : State) : Host.Outcome State Fault Refusal :=
  .next (s.bankExpiry c b (·.openCycle) fun k => { k with openCycle := .expired })

/-- WRITE_RECOVERY_EXPIRY (R53). -/
def execWriteRecoveryExpiry (c : Chan) (b : BankIx) (s : State) : Host.Outcome State Fault Refusal :=
  .next (s.bankExpiry c b (·.writeRecovery) fun k => { k with writeRecovery := .expired })

/-- ROW_HOLD_EXPIRY: hold_expired becomes yes (R55). -/
def execRowHoldExpiry (c : Chan) (b : BankIx) (s : State) : Host.Outcome State Fault Refusal :=
  .next (s.bankExpiry c b (·.rowHold) fun k => { k with rowHold := .stopped, holdExpired := true })

/-! ## The data bus -/

/-- A channel at the end of its write burst: the bank's burst is over and its write_recovery starts (R52), and
write_to_read starts (R66). -/
def Channel.endWriteBurst (x : Channel) (now : Nat) (w : WriteBurst) : Channel :=
  { (x.modBank w.bank fun k =>
      { k with writeBurst := false, writeRecovery := Timer.start now x.settings.writeRecovery }) with
    writeBurst := none
    writeToRead := Timer.start now x.settings.writeToRead }

/-- WRITE_BURST_END: a discarded write retires from its epoch (R38, R52, R66, R69). -/
def execWriteBurstEnd (c : Chan) (s : State) : Host.Outcome State Fault Refusal :=
  .next (match (s.chan c).writeBurst with
  | some w =>
    if w.expires ≤ s.now then
      let s1 := (s.modChan c fun x => x.endWriteBurst s.now w).settle c
      if w.discard then s1.retire w.epoch else s1
    else s
  | none => s)

/-- A word of a read as returned, corrected where one bit changed (R139). -/
def returnedLine (ws : Vector StoredWord 8) : Line := mapTable StoredWord.returned ws

/-- Bit `n` of the poisoned-word set: word `n` is uncorrectable. -/
def poisonBit (ws : Vector StoredWord 8) (i : WordIx) : Nat := if ws[i].uncorrectable then 2 ^ i.val else 0

/-- The poisoned-word set of a read (R139). -/
def poisonedSet (ws : Vector StoredWord 8) : BitVec 8 :=
  BitVec.ofNat 8 ((wordIxs.map (poisonBit ws)).sum)

/-- The corrected_words and poisoned_words counters after a read (R139). -/
def Counters.countWords (k : Counters) (ws : Vector StoredWord 8) : Counters :=
  { k with
    correctedWords := bumpBy ((tableList ws).countP StoredWord.corrected) k.correctedWords
    poisonedWords := bumpBy ((tableList ws).countP StoredWord.uncorrectable) k.poisonedWords }

/-- Checked data fills its slot and the READ_DATA is ready; a poisoned line raises POISONED (R139). -/
def State.fillSlot (s : State) (c : Chan) (i : SlotIx) (r : ReadRecord) (ws : Vector StoredWord 8) : State :=
  let s1 := (s.modChan c fun x => x.count fun k => k.countWords ws).setSlot i
    (.filled r (returnedLine ws) (poisonedSet ws))
  let s2 := s1.handOver ⟨r.stream, r.tag, r.order, .readData r.epoch i, false⟩
  if poisonedSet ws = 0 then s2 else s2.raiseNotice ⟨.poisoned, some c, bankRowDetail r.bank r.row⟩

/-- The delivery of a read's data to its slot: checked for a RESERVED slot, dropped for one in DISCARD, whose read
retires (R139, R149). -/
def State.deliver (s : State) (c : Chan) (d : IssuedRead) : State :=
  match s.ret.slots[d.slot] with
  | .reserved r => s.fillSlot c d.slot r d.words
  | .discard r => (s.setSlot d.slot .free).retire r.epoch
  | _ => s

/-- A channel at a data arrival: the read is no longer waiting and its burst begins on the bus (R68). -/
def Channel.arrive (x : Channel) (now : Nat) : Channel :=
  { x with issued := x.issued.tail, readBurst := some (now + x.settings.burstTime) }

/-- READ_COMPLETION: the data of the oldest issued read arrives; an earlier read burst has left the bus (R68, R139,
R149; log entry 8). -/
def execReadCompletion (c : Chan) (s : State) : Host.Outcome State Fault Refusal :=
  .next (match (s.chan c).issued with
  | d :: _ =>
    if d.expires ≤ s.now ∧ (s.chan c).readBurst = none then (s.modChan c fun x => x.arrive s.now).deliver c d
    else s
  | [] => s)

/-- READ_BURST_END: read_to_write starts (R67, R68). -/
def execReadBurstEnd (c : Chan) (s : State) : Host.Outcome State Fault Refusal :=
  .next (match (s.chan c).readBurst with
  | some e =>
    if e ≤ s.now then
      (s.modChan c fun x =>
        { x with readBurst := none, readToWrite := Timer.start s.now x.settings.readToWrite }).settle c
    else s
  | none => s)

/-- COLUMN_SPACING_EXPIRY (R65). -/
def execColumnSpacingExpiry (c : Chan) (s : State) : Host.Outcome State Fault Refusal :=
  .next (s.chanExpiry c (·.columnSpacing) fun x => { x with columnSpacing := .expired })

/-- WRITE_TO_READ_EXPIRY (R66). -/
def execWriteToReadExpiry (c : Chan) (s : State) : Host.Outcome State Fault Refusal :=
  .next (s.chanExpiry c (·.writeToRead) fun x => { x with writeToRead := .expired })

/-- READ_TO_WRITE_EXPIRY (R67). -/
def execReadToWriteExpiry (c : Chan) (s : State) : Host.Outcome State Fault Refusal :=
  .next (s.chanExpiry c (·.readToWrite) fun x => { x with readToWrite := .expired })

/-- OPEN_SPACING_EXPIRY (R70). -/
def execOpenSpacingExpiry (c : Chan) (s : State) : Host.Outcome State Fault Refusal :=
  .next (s.chanExpiry c (·.openSpacing) fun x => { x with openSpacing := .expired })

/-- The window list without the first entry that has reached its expiry (R71; log entry 9). -/
def dropExpired (now : Nat) (l : List WindowEntry) : List WindowEntry := l.eraseP fun e => e.expires ≤ now

/-- WINDOW_ENTRY_EXPIRY (R71). -/
def execWindowEntryExpiry (c : Chan) (s : State) : Host.Outcome State Fault Refusal :=
  .next (s.modChan c fun x => { x with window := dropExpired s.now x.window })

/-! ## The refresh account -/

/-- The account at an interval expiry: the debt rises by 1 up to 8, the timer restarts with the length in force, urgent
is judged (R92, R94), and a debt of 1 ends a doze (R99, R128). -/
def Channel.intervalExpires (x : Channel) (now : Nat) (b : Band) (threshold : Nat) : Channel :=
  let y := { x with
    debt := if x.debt < 8 then x.debt + 1 else x.debt
    interval := Timer.start now (intervalLength b x.settings) }.judgeUrgent threshold
  if x.state = .doze ∧ 1 ≤ y.debt then y.leaveDoze now .active else y

/-- An expiry that meets a debt of 8: the overdue counter, the fault and the notice (R92). -/
def State.overdue (s : State) (c : Chan) : State :=
  (s.modChan c fun x => x.count fun k => { k with overdue := bump k.overdue }).raiseBoth
    ⟨.refreshOverdue, some c, BitVec.ofNat 32 s.band.code⟩

/-- REFRESH_INTERVAL_EXPIRY (R92, R94, R99). -/
def execRefreshIntervalExpiry (c : Chan) (s : State) : Host.Outcome State Fault Refusal :=
  .next (if (s.chan c).interval.due s.now then
    let s1 := if 8 ≤ (s.chan c).debt then s.overdue c else s
    (s1.modChan c fun x => x.intervalExpires s.now s.band s.mgmt.settings.urgencyThreshold).settle c
  else s)

/-- The operation in progress is `op` and has reached its end. -/
def Channel.completes (x : Channel) (now : Nat) (op : MaintOp) : Bool :=
  match x.maint with
  | some m => m.op == op && m.expires ≤ now
  | none => false

/-- The channel state holds the debt at 0 (R98). -/
def Channel.debtHeld (x : Channel) : Bool :=
  match x.state with
  | .uninit | .starting | .retained => true
  | .waking => x.seqStep == .shortExit
  | _ => false

/-- A refresh completes: the debt falls by 1, or stays at 0 where the state holds it there (R97, R98). -/
def Channel.refreshCompletes (x : Channel) (threshold : Nat) : Channel :=
  { x with maint := none, debt := if x.debtHeld then 0 else x.debt - 1 }.judgeUrgent threshold

/-- REFRESH_COMPLETION (R97). -/
def execRefreshCompletion (c : Chan) (s : State) : Host.Outcome State Fault Refusal :=
  .next (if (s.chan c).completes s.now .refresh then
    (s.modChan c fun x => x.refreshCompletes s.mgmt.settings.urgencyThreshold).settle c
  else s)

/-! ## Trim -/

/-- TRIM_TIMER_EXPIRY: a short trim becomes due (R107). -/
def execTrimTimerExpiry (c : Chan) (s : State) : Host.Outcome State Fault Refusal :=
  .next (if (s.chan c).trimTimer.due s.now then
    (s.modChan c fun x => x.shortTrimFallsDue s.now s.mgmt.settings.trimGraceUs).settle c
  else s)

/-- GRACE_TIMER_EXPIRY: with a short trim due, the force condition begins (R110). -/
def execGraceTimerExpiry (c : Chan) (s : State) : Host.Outcome State Fault Refusal :=
  .next (s.chanExpiry c (·.graceTimer) fun x => { x with graceTimer := .expired, graceForce := x.shortTrimDue })

/-- The channel's state lets the trim timer run (R113). -/
def Channel.trimTimerMayRun (x : Channel) : Bool :=
  match x.state with
  | .active | .doze | .holding | .held | .retainPending => true
  | .waking => x.seqStep == .longExit
  | _ => false

/-- A short trim completes: short trim due and the grace condition end, and the trim timer starts where the state lets
it run (R109). -/
def Channel.shortTrimCompletes (x : Channel) (now : Nat) : Channel :=
  let y := { x with maint := none, shortTrimDue := false, graceForce := false }
  if x.trimTimerMayRun then y.startTrimTimer now else y

/-- SHORT_TRIM_COMPLETION (R109). -/
def execShortTrimCompletion (c : Chan) (s : State) : Host.Outcome State Fault Refusal :=
  .next (if (s.chan c).completes s.now .shortTrim then
    (s.modChan c fun x => x.shortTrimCompletes s.now).settle c
  else s)

/-- A long trim completes: every trim request and the grace condition end, and the trim timer starts (R111). -/
def Channel.longTrimCompletes (x : Channel) (now : Nat) : Channel :=
  ({ x with maint := none, shortTrimDue := false, graceForce := false, longTrimRequest := false }).startTrimTimer now

/-- What a completed long trim lets follow: STARTING enters ACTIVE (R120); WAKING enters ACTIVE if retain_exit_long has
expired, else waits for it (R133); a TRIM_LONG is answered OK (R112). -/
def State.afterLongTrim (s : State) (c : Chan) (requested : Bool) : State :=
  match (s.chan c).state with
  | .starting => s.enterActive c
  | .waking =>
    if (s.chan c).retainExitLong = .expired then s.enterActive c
    else s.modChan c fun x => { x with seqStep := .longExit }
  | _ => if requested then s.endLong c .ok else s

/-- LONG_TRIM_COMPLETION (R111, R112, R120, R133). -/
def execLongTrimCompletion (c : Chan) (s : State) : Host.Outcome State Fault Refusal :=
  .next (if (s.chan c).completes s.now .longTrim then
    ((s.modChan c fun x => x.longTrimCompletes s.now).afterLongTrim c (s.chan c).longTrimRequest).settle c
  else s)

/-! ## Temperature -/

/-- STALE_TIMER_EXPIRY: the record is stale, TEMP_STALE is raised, and a NORMAL band becomes HOT (R89). -/
def execStaleTimerExpiry (s : State) : Host.Outcome State Fault Refusal :=
  .next (if s.mgmt.temp.staleTimer.due s.now then
    let s1 := (s.modMgmt fun m => { m with temp := { m.temp with stale := true, staleTimer := .stopped } }).raiseNotice
      ⟨.tempStale, none, signed32 (s.mgmt.temp.last.getD 0)⟩
    if s.band = .normal then s1.setBand .hot else s1
  else s)

/-! ## Channel states -/

/-- The doze entry step: the channel enters DOZE and counts it (R127, R135). -/
def Channel.enterDoze (x : Channel) : Channel :=
  { (x.count fun k => { k with dozes := bump k.dozes }).issue .dozeEntry with state := .doze, idleTimer := .stopped }

/-- IDLE_TIMER_EXPIRY (R127). -/
def execIdleTimerExpiry (c : Chan) (s : State) : Host.Outcome State Fault Refusal :=
  .next (if (s.chan c).idleTimer.due s.now ∧ (s.chan c).state = .active then s.modChan c Channel.enterDoze else s)

/-- DOZE_EXIT_EXPIRY: the selector may issue again; a drain may complete and idleness begin (R125, R127, R128). -/
def execDozeExitExpiry (c : Chan) (s : State) : Host.Outcome State Fault Refusal :=
  .next (if (s.chan c).dozeExit.due s.now then
    (s.modChan c fun x => { x with dozeExit := .stopped }).settle c
  else s)

/-- POWERUP_WAIT_EXPIRY: the settings write step becomes due (R120). -/
def execPowerupWaitExpiry (c : Chan) (s : State) : Host.Outcome State Fault Refusal :=
  .next (s.chanExpiry c (·.powerupWait) fun x =>
    { x with powerupWait := .expired, seqStep := if x.state = .starting then .settingsWrite else x.seqStep })

/-- What a completed settings write step lets follow: the start-up long trim waits in STARTING (R120); a RESUME enters
ACTIVE and is answered OK (R126). -/
def State.afterSettingsWrite (s : State) (c : Chan) : State :=
  match (s.chan c).state with
  | .starting => s.modChan c fun x => { x with seqStep := .longTrim }
  | .held => (s.modChan c fun x => { x with state := .active }).endLong c .ok
  | _ => s

/-- SETTINGS_WRITE_COMPLETION (R120, R126). -/
def execSettingsWriteCompletion (c : Chan) (s : State) : Host.Outcome State Fault Refusal :=
  .next (if (s.chan c).completes s.now .settingsWrite then
    ((s.modChan c fun x => { x with maint := none }).afterSettingsWrite c).settle c
  else s)

/-- RETAIN_EXIT_SHORT_EXPIRY: the refresh account starts and the wake's long trim waits (R100, R133). -/
def execRetainExitShortExpiry (c : Chan) (s : State) : Host.Outcome State Fault Refusal :=
  .next (s.chanExpiry c (·.retainExitShort) fun x =>
    let y := { x with retainExitShort := .expired }
    if x.state = .waking then { y.freshAccount s.now s.band with seqStep := .longTrim } else y)

/-- RETAIN_EXIT_LONG_EXPIRY: the channel enters ACTIVE if the long trim has completed (R133). -/
def execRetainExitLongExpiry (c : Chan) (s : State) : Host.Outcome State Fault Refusal :=
  .next (if (s.chan c).retainExitLong.due s.now then
    let s1 := s.modChan c fun x => { x with retainExitLong := .expired }
    (if (s.chan c).state = .waking ∧ (s.chan c).seqStep = .longExit then s1.enterActive c else s1).settle c
  else s)

end Sys2Proof.Machine
end

