-- ==== Sys2Proof/Machine/LinkReceive.lean ====
section
/-! DEFINITION. What arrives at the part: the cold-reset line, the host's link control packets, a damaged packet and a
sequenced packet (files 01 and 10). -/

namespace Sys2Proof.Machine

/-- COLD_RESET: every block returns to its cold-reset state and the link is DOWN (R19, R41, R61, R82, R84, R91, R103,
R116, R148, R154, R162, R165, R167); the DRAM contents become undefined (R61). The queue of waiting commands is the
interface's, not the part's. -/
def execColdReset (s : State) : Host.Outcome State Fault Refusal :=
  .next (stateAtReset (channelAtReset ((s.chan 0).dramGen + 1)) (channelAtReset ((s.chan 1).dramGen + 1)) s.pending)

/-- The entry to TRAINING from DOWN (R168). -/
def Link.train (l : Link) : Link := { l with state := .training, helloPending := true }

/-- A good HELLO: training from DOWN, a link reset in UP, discarded in TRAINING (R167, R168, R177). -/
def State.takeHello (s : State) : State :=
  match s.link.state with
  | .down => s.modLink Link.train
  | .training => s
  | .up => s.linkReset

/-- HELLO; one of another length is discarded (R182). -/
def execHello (payload : List Byte) (s : State) : Host.Outcome State Fault Refusal :=
  .next (if payload.length = 0 then s.takeHello else s)

/-- RESET_LINK: a link reset in UP, discarded in DOWN and TRAINING (R167, R168, R177, R182). -/
def execResetLink (payload : List Byte) (s : State) : Host.Outcome State Fault Refusal :=
  .next (if payload.length = 0 ∧ s.link.state = .up then s.linkReset else s)

/-- An ACK carrying `n` (R174). -/
def Link.takeAck (l : Link) (now : Nat) (n : SeqNo) : Link :=
  if l.offset n < l.replay.length then l.acknowledge now (l.offset n + 1) else l

/-- ACK (R174). -/
def execAck (payload : List Byte) (s : State) : Host.Outcome State Fault Refusal :=
  .next (if payload.length = 4 ∧ s.link.state = .up then
    s.modLink fun l => l.takeAck s.now (controlNumber payload) else s)

/-- A NAK carrying `n` (R174): with `n` in the buffer it acknowledges the packets older than `n` and calls for a replay
from `n`; one past the newest it acknowledges the whole buffer; else it is stale. -/
def State.takeNak (s : State) (n : SeqNo) : State :=
  if s.link.offset n < s.link.replay.length then
    (s.modLink fun l => l.acknowledge s.now (l.offset n)).callReplay (some n)
  else if s.link.replay ≠ [] ∧ n = s.link.nextSeq then
    s.modLink fun l => l.acknowledge s.now l.replay.length
  else s

/-- NAK (R174, R175, R176). -/
def execNak (payload : List Byte) (s : State) : Host.Outcome State Fault Refusal :=
  .next (if payload.length = 4 ∧ s.link.state = .up then s.takeNak (controlNumber payload) else s)

/-- A CREDIT adds its count to the response credits, up to 255 (R172). -/
def Link.takeCredit (l : Link) (count : Nat) : Link :=
  { l with respCredits := if 255 < l.respCredits + count then 255 else l.respCredits + count }

/-- CREDIT (R172). -/
def execCredit (payload : List Byte) (s : State) : Host.Outcome State Fault Refusal :=
  .next (if payload.length = 4 ∧ s.link.state = .up then
    s.modLink fun l => l.takeCredit (controlNumber payload).toNat else s)

/-- A NAK carrying expected is made when none is outstanding (R170). -/
def Link.wantNak (l : Link) : Link :=
  if l.nakOutstanding then l else { l with nakPending := some l.expected, nakOutstanding := true }

/-- PACKET_CRC_FAILURE: counted in any link state (R179), and in UP it makes a NAK when none is outstanding (R167,
R168, R170). -/
def execPacketCrcFailure (s : State) : Host.Outcome State Fault Refusal :=
  let s1 := s.modLink fun l => { l with counters := { l.counters with crcErrors := bump l.counters.crcErrors } }
  .next (if s.link.state = .up then s1.modLink Link.wantNak else s1)

/-- One request credit is used at an acceptance (R171). -/
def Link.useCredit (l : Link) : Link :=
  if 0 < l.granted then { l with granted := l.granted - 1 }
  else if 0 < l.owed then { l with owed := l.owed - 1 }
  else l

/-- The Link Port at the acceptance of the packet it expects (R169). -/
def Link.accept (l : Link) : Link :=
  { l.useCredit with expected := l.expected + 1, nakOutstanding := false, ackPending := some l.expected }

/-- The Intake takes a packet: it joins the tail of the queue with its stream's next order number, and its tag joins
the tag table (R5, R8). -/
def State.takePacket (s : State) (p : Packet) : State :=
  (s.modIntake fun x =>
    { x with queue := x.queue ++ [⟨p, (s.stream p.stream).nextOrder⟩], tags := x.tags ++ [(p.stream, p.tag)] }).modStream
    p.stream fun e => { e with nextOrder := e.nextOrder + 1 }

/-- The Intake's treatment of an arriving packet: overrun, tag reuse, or taken (R5, R6, R7). -/
def State.arrive (s : State) (p : Packet) : State :=
  if Config.ingressSlots ≤ s.intake.queue.length then
    s.raiseBoth ⟨.overrun, none, tagDetail p.stream p.tag⟩
  else if s.intake.tags.contains (p.stream, p.tag) then
    (s.raiseBoth ⟨.tagReuse, none, tagDetail p.stream p.tag⟩).modLink fun l => { l with owed := l.owed + 1 }
  else s.takePacket p

/-- A duplicate: the last ACK is sent again (R170, R179). -/
def Link.duplicate (l : Link) : Link :=
  { l with ackPending := some (l.expected - 1),
           counters := { l.counters with duplicates := bump l.counters.duplicates } }

/-- A packet ahead of sequence (R170, R179). -/
def Link.aheadOfSequence (l : Link) : Link :=
  { l with counters := { l.counters with outOfSequence := bump l.counters.outOfSequence } }.wantNak

/-- A good sequenced packet in UP (R169, R170). -/
def State.takeSequenced (s : State) (seq : SeqNo) (p : Packet) : State :=
  if seq = s.link.expected then (s.modLink Link.accept).arrive p
  else if seqBehind s.link.expected seq then s.modLink Link.duplicate
  else s.modLink Link.aheadOfSequence

/-- SEQUENCED_PACKET_ARRIVAL (R169, R170); discarded in DOWN and TRAINING (R167, R168). A packet of a link control kind
is no sequenced packet (log entry 19). -/
def execSequencedPacketArrival (seq : SeqNo) (p : Packet) (s : State) : Host.Outcome State Fault Refusal :=
  .next (if s.link.state = .up ∧ Packet.linkControlKind p.kind = false then s.takeSequenced seq p else s)

end Sys2Proof.Machine
end

