-- ==== Sys2Proof/Machine/LinkTransmit.lean ====
section
/-! DEFINITION. The transmit port (R173): link control packets, replays, and the responses and notices the Return Unit
chooses (R144); and the replay timer. -/

namespace Sys2Proof.Machine

/-- HELLO_SEND: the part's HELLO goes first of all; the link enters UP and owed becomes 64 minus the occupied ingress
slots (R168, R171, R173). -/
def execHelloSend (s : State) : Host.Outcome State Fault Refusal :=
  .next (if s.link.helloPending then
    s.modLink fun l => { (l.transmit .hello) with
      helloPending := false, state := .up, owed := Config.ingressSlots - s.intake.queue.length }
  else s)

/-- The link is UP and no HELLO waits: items 2 to 6 of R173 may be sent. -/
def Link.mayTransmit (l : Link) : Bool := l.state == .up && !l.helloPending

/-- NAK_SEND (R173, item 2; R179). -/
def execNakSend (s : State) : Host.Outcome State Fault Refusal :=
  .next (match s.link.nakPending with
  | some n =>
    if s.link.mayTransmit then
      s.modLink fun l => { (l.transmit (.nak n)) with
        nakPending := none, counters := { l.counters with naksSent := bump l.counters.naksSent } }
    else s
  | none => s)

/-- ACK_SEND: the ACK carries ack_pending as it stands (R169; R173, item 3). -/
def execAckSend (s : State) : Host.Outcome State Fault Refusal :=
  .next (match s.link.ackPending with
  | some n =>
    if s.link.mayTransmit && s.link.nakPending.isNone then
      s.modLink fun l => { (l.transmit (.ack n)) with ackPending := none }
    else s
  | none => s)

/-- No NAK and no ACK waits: items 4 to 6 of R173 may be sent. -/
def Link.controlIdle (l : Link) : Bool := l.mayTransmit && l.nakPending.isNone && l.ackPending.isNone

/-- CREDIT_SEND: the CREDIT carries the whole of owed (R171; R173, item 4). -/
def execCreditSend (s : State) : Host.Outcome State Fault Refusal :=
  .next (if s.link.controlIdle && 0 < s.link.owed then
    s.modLink fun l => { (l.transmit (.credit l.owed)) with granted := l.granted + l.owed, owed := 0 }
  else s)

/-- The replay point after the packet numbered `p` was retransmitted: the next packet of the buffer, or none after the
newest (R175). -/
def Link.nextReplayPoint (l : Link) (p : SeqNo) : Option SeqNo :=
  if l.offset p + 1 < l.replay.length then some (p + 1) else none

/-- RETRANSMISSION: the packet at the replay point goes out with its own number and contents (R173, item 5; R175). -/
def execRetransmission (s : State) : Host.Outcome State Fault Refusal :=
  .next (match s.link.replayPoint with
  | some p =>
    if s.link.controlIdle && s.link.owed = 0 then
      s.modLink fun l => { (match l.replay.find? (·.seq == p) with
          | some k => l.transmit (.sequenced k)
          | none => l) with replayPoint := l.nextReplayPoint p }
    else s
  | none => s)

/-- The Link Port can take a response or notice (R173, item 6). -/
def Link.canTake (l : Link) : Bool :=
  l.controlIdle && l.owed = 0 && l.replayPoint.isNone && 0 < l.respCredits && l.replay.length < Config.replayEntries

/-- A response is sendable: its stream is RELAXED, or its order number is the stream's next to send (R142). -/
def State.sendable (s : State) (r : Response) : Bool :=
  (s.stream r.stream).orderMode == .relaxed || r.order == s.ret.nextToSend[r.stream]

/-- A pending notice is sent before any response: eight responses went ahead of it, or none is sendable (R144). -/
def State.noticeTurn (s : State) : Bool :=
  !s.mgmt.notices.isEmpty && (s.ret.noticeWait == Config.noticeWaitMax || !(s.ret.queue.any s.sendable))

/-- The response sent next: the oldest sendable one, unless it is a notice's turn (R144). -/
def State.chosenResponse (s : State) : Option Response :=
  if s.noticeTurn then none else s.ret.queue.find? s.sendable

/-- The packet of a response (R146; file 11, section 11.3). -/
def State.packetOf (s : State) (r : Response) : OutPacket :=
  match r.body with
  | .readData _ i =>
    match s.ret.slots[i] with
    | .filled _ d p => .readData r.stream r.tag d p
    | _ => .readData r.stream r.tag (Vector.replicate 8 0) 0
  | .writeDone _ _ => .writeDone r.stream r.tag
  | .flushDone => .flushDone r.stream r.tag
  | .mgmtResp code v => .mgmtResp r.stream r.tag code v
  | .errorResp code => .errorResp r.stream r.tag code

/-- Next to send of a stream after a send: 0 after the MGMT_RESP of a FUNCTION_RESET (R150), one more on a STRICT
stream (R143). -/
def nextAfterSend (r : Response) (m : OrderMode) (n : OrderNo) : OrderNo :=
  if r.ofFunctionReset then 0 else if m = .strict then n + 1 else n

/-- What the Return Unit and the Intake release at a send: the queue entry, the tag, the place in the order, and the
notice wait, for the notices pending before the send (R146; log entry 28). -/
def State.releaseResponse (s : State) (r : Response) : State :=
  let m := (s.stream r.stream).orderMode
  (s.modRet fun x => { x with
      queue := x.queue.erase r
      nextToSend := x.nextToSend.set r.stream (nextAfterSend r m x.nextToSend[r.stream])
      noticeWait := if s.mgmt.notices.isEmpty then x.noticeWait else x.noticeWait + 1 }).modIntake
    fun x => { x with tags := x.tags.erase (r.stream, r.tag) }

/-- A READ_DATA frees its slot, and a READ_DATA or WRITE_DONE retires its request from its epoch (R146). -/
def State.releaseRequest (s : State) (r : Response) : State :=
  match r.body with
  | .readData e i => (s.setSlot i .free).retire e
  | .writeDone e _ => s.retire e
  | _ => s

/-- The send of a response (R146, R173). The notice wait count looks at the notices pending before the send, so a
MAP_DRAINED that the retirement raises begins from 0 (log entry 28, DESIGN CHOICE). -/
def State.sendResponse (s : State) (r : Response) : State :=
  ((s.modLink fun l => l.sendNew s.now (s.packetOf r)).releaseResponse r).releaseRequest r

/-- RESPONSE_SEND (R144 to R146, R173). -/
def execResponseSend (s : State) : Host.Outcome State Fault Refusal :=
  .next (match s.chosenResponse with
  | some r => if s.link.canTake then s.sendResponse r else s
  | none => s)

/-- The stream whose notice_target is yes (R2). -/
def State.noticeTarget (s : State) : StreamIx :=
  (streamIxs.find? fun i => (s.stream i).noticeTarget).getD 0

/-- The send of a notice: it leaves the notice set, and the notice wait count becomes 0 (R144, R161). -/
def State.sendNotice (s : State) (n : Notice) : State :=
  ((s.modLink fun l => l.sendNew s.now (.notice s.noticeTarget n.kind n.chan n.detail)).modMgmt
    fun m => { m with notices := m.notices.tail }).modRet fun x => { x with noticeWait := 0 }

/-- NOTICE_SEND (R144, R161, R173). -/
def execNoticeSend (s : State) : Host.Outcome State Fault Refusal :=
  .next (match s.mgmt.notices with
  | n :: _ => if s.noticeTurn && s.link.canTake then s.sendNotice n else s
  | [] => s)

/-- REPLAY_TIMER_EXPIRY: a replay from the oldest packet is called for (R175, R176). -/
def execReplayTimerExpiry (s : State) : Host.Outcome State Fault Refusal :=
  .next (if s.link.replayTimer.due s.now then s.callReplay (s.link.replay.head?.map (·.seq)) else s)

end Sys2Proof.Machine
end

