-- ==== Sys2Proof/Machine/Dispatch.lean ====
section
/-! DEFINITION. The dispatcher: one arm per command, each a direct call of its meaning. -/

namespace Sys2Proof.Machine

def exec (i : Instr) (s : State) : Host.Outcome State Fault Refusal :=
  match i with
  | .coldReset => Sys2Proof.Machine.execColdReset s
  | .hello payload => Sys2Proof.Machine.execHello payload s
  | .resetLink payload => Sys2Proof.Machine.execResetLink payload s
  | .ack payload => Sys2Proof.Machine.execAck payload s
  | .nak payload => Sys2Proof.Machine.execNak payload s
  | .credit payload => Sys2Proof.Machine.execCredit payload s
  | .packetCrcFailure => Sys2Proof.Machine.execPacketCrcFailure s
  | .sequencedPacketArrival seq packet => Sys2Proof.Machine.execSequencedPacketArrival seq packet s
  | .unknownKind => Sys2Proof.Machine.execUnknownKind s
  | .read => Sys2Proof.Machine.execRead s
  | .write => Sys2Proof.Machine.execWrite s
  | .flush => Sys2Proof.Machine.execFlush s
  | .mgmtRead => Sys2Proof.Machine.execMgmtRead s
  | .mgmtWrite => Sys2Proof.Machine.execMgmtWrite s
  | .orderModeWrite => Sys2Proof.Machine.execOrderModeWrite s
  | .managerWrite => Sys2Proof.Machine.execManagerWrite s
  | .noticeTargetWrite => Sys2Proof.Machine.execNoticeTargetWrite s
  | .mapTableWrite => Sys2Proof.Machine.execMapTableWrite s
  | .channelSettingsWrite => Sys2Proof.Machine.execChannelSettingsWrite s
  | .rowsPerBankWrite => Sys2Proof.Machine.execRowsPerBankWrite s
  | .urgencyThresholdWrite => Sys2Proof.Machine.execUrgencyThresholdWrite s
  | .trimSettingsWrite => Sys2Proof.Machine.execTrimSettingsWrite s
  | .noticeEnableWrite => Sys2Proof.Machine.execNoticeEnableWrite s
  | .temperatureReport => Sys2Proof.Machine.execTemperatureReport s
  | .init => Sys2Proof.Machine.execInit s
  | .hold => Sys2Proof.Machine.execHold s
  | .resume => Sys2Proof.Machine.execResume s
  | .retain => Sys2Proof.Machine.execRetain s
  | .wake => Sys2Proof.Machine.execWake s
  | .trimLong => Sys2Proof.Machine.execTrimLong s
  | .commitMap => Sys2Proof.Machine.execCommitMap s
  | .copyLiveToShadow => Sys2Proof.Machine.execCopyLiveToShadow s
  | .clearFault => Sys2Proof.Machine.execClearFault s
  | .clearCounters => Sys2Proof.Machine.execClearCounters s
  | .functionReset => Sys2Proof.Machine.execFunctionReset s
  | .openRow c => Sys2Proof.Machine.execOpenRow c s
  | .closeBank c => Sys2Proof.Machine.execCloseBank c s
  | .readColumnCommand c changes => Sys2Proof.Machine.execReadColumnCommand c changes s
  | .writeColumnCommand c => Sys2Proof.Machine.execWriteColumnCommand c s
  | .refresh c => Sys2Proof.Machine.execRefresh c s
  | .shortTrim c => Sys2Proof.Machine.execShortTrim c s
  | .longTrim c => Sys2Proof.Machine.execLongTrim c s
  | .settingsWriteStep c => Sys2Proof.Machine.execSettingsWriteStep c s
  | .retentionEntryStep c => Sys2Proof.Machine.execRetentionEntryStep c s
  | .openToAccessExpiry c b => Sys2Proof.Machine.execOpenToAccessExpiry c b s
  | .closeTimeExpiry c b => Sys2Proof.Machine.execCloseTimeExpiry c b s
  | .openMinExpiry c b => Sys2Proof.Machine.execOpenMinExpiry c b s
  | .openCycleExpiry c b => Sys2Proof.Machine.execOpenCycleExpiry c b s
  | .writeRecoveryExpiry c b => Sys2Proof.Machine.execWriteRecoveryExpiry c b s
  | .rowHoldExpiry c b => Sys2Proof.Machine.execRowHoldExpiry c b s
  | .writeBurstEnd c => Sys2Proof.Machine.execWriteBurstEnd c s
  | .readCompletion c => Sys2Proof.Machine.execReadCompletion c s
  | .readBurstEnd c => Sys2Proof.Machine.execReadBurstEnd c s
  | .columnSpacingExpiry c => Sys2Proof.Machine.execColumnSpacingExpiry c s
  | .writeToReadExpiry c => Sys2Proof.Machine.execWriteToReadExpiry c s
  | .readToWriteExpiry c => Sys2Proof.Machine.execReadToWriteExpiry c s
  | .openSpacingExpiry c => Sys2Proof.Machine.execOpenSpacingExpiry c s
  | .windowEntryExpiry c => Sys2Proof.Machine.execWindowEntryExpiry c s
  | .refreshIntervalExpiry c => Sys2Proof.Machine.execRefreshIntervalExpiry c s
  | .refreshCompletion c => Sys2Proof.Machine.execRefreshCompletion c s
  | .trimTimerExpiry c => Sys2Proof.Machine.execTrimTimerExpiry c s
  | .graceTimerExpiry c => Sys2Proof.Machine.execGraceTimerExpiry c s
  | .shortTrimCompletion c => Sys2Proof.Machine.execShortTrimCompletion c s
  | .longTrimCompletion c => Sys2Proof.Machine.execLongTrimCompletion c s
  | .staleTimerExpiry => Sys2Proof.Machine.execStaleTimerExpiry s
  | .idleTimerExpiry c => Sys2Proof.Machine.execIdleTimerExpiry c s
  | .dozeExitExpiry c => Sys2Proof.Machine.execDozeExitExpiry c s
  | .powerupWaitExpiry c => Sys2Proof.Machine.execPowerupWaitExpiry c s
  | .settingsWriteCompletion c => Sys2Proof.Machine.execSettingsWriteCompletion c s
  | .retainExitShortExpiry c => Sys2Proof.Machine.execRetainExitShortExpiry c s
  | .retainExitLongExpiry c => Sys2Proof.Machine.execRetainExitLongExpiry c s
  | .helloSend => Sys2Proof.Machine.execHelloSend s
  | .nakSend => Sys2Proof.Machine.execNakSend s
  | .ackSend => Sys2Proof.Machine.execAckSend s
  | .creditSend => Sys2Proof.Machine.execCreditSend s
  | .retransmission => Sys2Proof.Machine.execRetransmission s
  | .responseSend => Sys2Proof.Machine.execResponseSend s
  | .noticeSend => Sys2Proof.Machine.execNoticeSend s
  | .replayTimerExpiry => Sys2Proof.Machine.execReplayTimerExpiry s
  | .unknownCommandCode => Sys2Proof.Machine.execUnknownCommandCode s

end Sys2Proof.Machine
end

