-- ==== Sys2Proof/Machine/Tick.lean ====
section
/-! DEFINITION. The passing of time (log entry 2): one time unit passes when the part has nothing to do at this
instant, that is when no timer is due, no selector grants a command and the head of the ingress queue cannot be taken. -/

namespace Sys2Proof.Machine

/-- An expiry of this bank is due. -/
def Bank.anyDue (k : Bank) (now : Nat) : Bool :=
  k.openDue now || k.closeDue now || k.openMin.due now || k.openCycle.due now || k.writeRecovery.due now
    || k.rowHold.due now

/-- The data of the oldest issued read may arrive. -/
def Channel.dataDue (x : Channel) (now : Nat) : Bool :=
  x.readBurst.isNone && (match x.issued with | d :: _ => d.expires ≤ now | [] => false)

/-- An end on this channel's data bus or of its operation in progress is due. -/
def Channel.endDue (x : Channel) (now : Nat) : Bool :=
  (match x.writeBurst with | some w => w.expires ≤ now | none => false)
    || (match x.readBurst with | some e => e ≤ now | none => false)
    || x.dataDue now
    || (match x.maint with | some m => m.expires ≤ now | none => false)
    || x.window.any (fun e => e.expires ≤ now)

/-- A timer of this channel, those of its banks apart, is due. -/
def Channel.timerDue (x : Channel) (now : Nat) : Bool :=
  x.columnSpacing.due now || x.writeToRead.due now || x.readToWrite.due now || x.openSpacing.due now
    || x.interval.due now || x.trimTimer.due now || x.graceTimer.due now
    || (x.state == .active && x.idleTimer.due now) || x.dozeExit.due now || x.powerupWait.due now
    || x.retainExitShort.due now || x.retainExitLong.due now

/-- Something on channel `c` is due. -/
def State.chanDue (s : State) (c : Chan) : Bool :=
  let x := s.chan c
  x.timerDue s.now || x.endDue s.now || bankIxs.any (fun b => (x.bank b).anyDue s.now) || (s.grant c).isSome

/-- A READ at the head waits for a completion slot or a pool entry (R13, R29). -/
def State.readWaits (s : State) (q : QueuedPacket) (a : HostAddr) : Bool :=
  match s.check q.packet.stream a (unaligned a) false with
  | .fails _ => false
  | .passes loc => s.ret.freeSlot.isNone || !s.poolHasRoom loc.chan

/-- A WRITE at the head waits for a pool entry (R13, R29). -/
def State.writeWaits (s : State) (q : QueuedPacket) (a : HostAddr) (enable : BitVec 8) : Bool :=
  match s.check q.packet.stream a (unaligned a || enable == 0#8) true with
  | .fails _ => false
  | .passes loc => !s.poolHasRoom loc.chan

/-- The head of the ingress queue can be taken now (R12, R13). -/
def State.headDue (s : State) : Bool :=
  match s.intake.queue with
  | [] => false
  | q :: _ =>
    match requestOf q.packet with
    | .read a => !s.readWaits q a
    | .write a en _ => !s.writeWaits q a en
    | _ => true

/-- Something the part does by itself is due at this instant. -/
def State.somethingDue (s : State) : Bool :=
  s.chanDue 0 || s.chanDue 1 || s.headDue || s.mgmt.temp.staleTimer.due s.now || s.link.replayTimer.due s.now

/-- One time unit passes, unless something is due. -/
def State.tick (s : State) : State := if s.somethingDue then s else { s with now := s.now + 1 }

end Sys2Proof.Machine
end

