-- ==== Sys2Proof/Machine/Wire.lean ====
section
/-! DEFINITION. The bytes of packets on the host link (file 11): the header and its CRC, what command a received packet
is, and the bytes of every packet the part sends. -/

namespace Sys2Proof.Machine

/-! ## The CRC (section 11.1) -/

/-- One bit enters the division by the generator polynomial 0x04C1_1DB7. -/
def crcBit (r : Word32) (b : Bool) : Word32 := if r.msb != b then (r <<< 1) ^^^ 0x04C11DB7#32 else r <<< 1

/-- One byte enters the division, least significant bit first. -/
def crcByte (r : Word32) (x : Byte) : Word32 :=
  [0, 1, 2, 3, 4, 5, 6, 7].foldl (fun acc i => crcBit acc (x.getLsbD i)) r

/-- A remainder bit-reversed: its highest-order coefficient becomes bit 0. -/
def reverse32 (r : Word32) : Word32 :=
  (List.range 32).foldl (fun acc i => (acc <<< 1) ||| (if r.getLsbD i then 1#32 else 0#32)) 0#32

/-- The CRC over the header and the payload: initial value 0xFFFF_FFFF, remainder reversed, then inverted. -/
def crc32 (bs : List Byte) : Word32 := ~~~ reverse32 (bs.foldl crcByte 0xFFFFFFFF#32)

/-- The `n` bytes of a value, least significant byte first. -/
def leBytes : Nat → Nat → List Byte
  | 0, _ => []
  | n + 1, v => BitVec.ofNat 8 v :: leBytes n (v / 256)

/-! ## Receiving -/

/-- Byte 1 of a header: the stream in bits 7 to 6, the tag in bits 5 to 0. -/
def streamOfByte (b : Byte) : StreamIx := ⟨b.toNat / 64 % 4, Nat.mod_lt _ (by decide)⟩

/-- The tag of byte 1 of a header. -/
def tagOfByte (b : Byte) : TagIx := ⟨b.toNat % 64, Nat.mod_lt _ (by decide)⟩

/-- A packet's bytes are whole and its stored CRC agrees (section 11.1). Bytes whose number is not what the length field
says are a damaged packet (log entry 11). -/
def packetGood (bs : List Byte) : Bool :=
  bs.length == 8 + (byteAt bs 3).toNat && leBytes 4 (crc32 (bs.take (bs.length - 4))).toNat == bs.drop (bs.length - 4)

/-- The command that a good packet is, by its kind code (sections 11.1 to 11.3). -/
def goodPacket (bs : List Byte) : Instr :=
  let payload := (bs.drop 4).take (byteAt bs 3).toNat
  let kind := byteAt bs 0
  if kind == 0x20#8 then .hello payload
  else if kind == 0x21#8 then .ack payload
  else if kind == 0x22#8 then .nak payload
  else if kind == 0x23#8 then .credit payload
  else if kind == 0x24#8 then .resetLink payload
  else .sequencedPacketArrival (byteAt bs 2) ⟨kind, streamOfByte (byteAt bs 1), tagOfByte (byteAt bs 1), payload⟩

/-- The command that the bytes of one received packet are. -/
def receive (bs : List Byte) : Instr := if packetGood bs then goodPacket bs else .packetCrcFailure

/-! ## Sending -/

/-- The MGMT_RESP code values (section 11.3). -/
def MgmtCode.value : MgmtCode → Nat
  | .ok => 0
  | .busy => 1
  | .badIndex => 2
  | .readOnlyField => 3
  | .badValue => 4
  | .notHeld => 5
  | .badState => 6
  | .badTiming => 7
  | .badLayout => 8
  | .overlap => 9
  | .outOfRows => 10
  | .alias_ => 11
  | .geometryConflict => 12
  | .cancelled => 13

/-- The ERROR_RESP code values (section 11.3). -/
def ErrCode.value : ErrCode → Nat
  | .malformed => 1
  | .unmapped => 2
  | .denied => 3
  | .readOnly => 4
  | .notReady => 5
  | .channelHeld => 6
  | .flushLimit => 7

/-- The bytes of a line. -/
def lineBytes (d : Line) : List Byte := (tableList d).flatMap fun w => leBytes 8 w.toNat

/-- Kind code, stream, tag and payload of a sequenced packet of the part (sections 11.2, 11.3; R181, R182). -/
def OutPacket.parts : OutPacket → Byte × StreamIx × TagIx × List Byte
  | .readData s t d p => (0x11#8, s, t, lineBytes d ++ [p, 0#8, 0#8, 0#8])
  | .writeDone s t => (0x12#8, s, t, [])
  | .flushDone s t => (0x13#8, s, t, [])
  | .mgmtResp s t c v =>
    (0x14#8, s, t, [BitVec.ofNat 8 c.value, if v.isSome then 1#8 else 0#8, 0#8, 0#8] ++ leBytes 4 (v.getD 0).toNat)
  | .errorResp s t c => (0x15#8, s, t, [BitVec.ofNat 8 c.value, 0#8, 0#8, 0#8])
  | .notice s k c d =>
    (0x16#8, s, 0, [BitVec.ofNat 8 k.number, (match c with | some c => BitVec.ofNat 8 c.val | none => 0xFF#8),
      0#8, 0#8] ++ leBytes 4 d.toNat)

/-- A header and payload with their CRC behind them. -/
def framed (kind : Byte) (s : StreamIx) (t : TagIx) (seq : SeqNo) (payload : List Byte) : List Byte :=
  let body := [kind, BitVec.ofNat 8 (s.val * 64 + t.val), seq, BitVec.ofNat 8 payload.length] ++ payload
  body ++ leBytes 4 (crc32 body).toNat

/-- The bytes of a packet the part puts on the link (file 11; R182). -/
def TxPacket.bytes : TxPacket → List Byte
  | .hello => framed 0x20#8 0 0 0 []
  | .ack n => framed 0x21#8 0 0 0 [n, 0#8, 0#8, 0#8]
  | .nak n => framed 0x22#8 0 0 0 [n, 0#8, 0#8, 0#8]
  | .credit n => framed 0x23#8 0 0 0 [BitVec.ofNat 8 n, 0#8, 0#8, 0#8]
  | .sequenced p => framed p.body.parts.1 p.body.parts.2.1 p.body.parts.2.2.1 p.seq p.body.parts.2.2.2

end Sys2Proof.Machine
end

