-- ==== Sys2Proof/Safety.lean ====
section
/-! DEFINITION. The laws of the device as predicates on a state (the spec's numbered laws), and the words the
statements are written in: the head of the ingress queue, a packet taken and answered, the form of a packet, the
management tables, what is due, and what the selector may choose, each written from its rule and not from the meanings. -/

namespace Sys2Proof.Safety

open Sys2Proof.Machine

/-! ## Words of the statements -/

/-- The head of the ingress queue is `q`, the packets behind it are `rest`, and `q` asks for `r`. -/
abbrev HeadIs (s : State) (q : QueuedPacket) (rest : List QueuedPacket) (r : Request) : Prop :=
  s.intake.queue = q :: rest ∧ requestOf q.packet = r

/-- The head is `q`, of a manager stream (R12). -/
abbrev ManagerHead (s : State) (q : QueuedPacket) (rest : List QueuedPacket) (r : Request) : Prop :=
  HeadIs s q rest r ∧ (s.stream q.packet.stream).manager = true

/-- The head has been taken: `rest` remains, and one request credit more is owed (R11). -/
def taken (s : State) (rest : List QueuedPacket) : State :=
  { s with intake := { s.intake with queue := rest }, link := { s.link with owed := s.link.owed + 1 } }

/-- The response to `q` has joined the tail of the response queue (R141). -/
def responded (s : State) (q : QueuedPacket) (body : RespBody) : State :=
  { s with ret := { s.ret with queue := s.ret.queue ++ [⟨q.packet.stream, q.packet.tag, q.order, body, false⟩] } }

/-- The head has been taken and answered, and nothing else has changed. -/
def answered (s : State) (q : QueuedPacket) (rest : List QueuedPacket) (body : RespBody) : State :=
  responded (taken s rest) q body

/-- Link UP, and nothing ahead of a retransmission waits for the transmit port (R173, items 1 to 4). -/
abbrev PortClear (l : Link) : Prop :=
  l.state = .up ∧ l.helloPending = false ∧ l.nakPending = none ∧ l.ackPending = none ∧ l.owed = 0

/-- The Link Port can take a response or a notice (R173, item 6). -/
abbrev PortTakes (l : Link) : Prop :=
  PortClear l ∧ l.replayPoint = none ∧ 1 ≤ l.respCredits ∧ l.replay.length < 32

/-- No serving, no maintenance, nothing in a pool, on the bus or in a bank: what HELD, DOZE and RETAINED are entered
with (R125, R127, R130). -/
def AtRest (x : Channel) : Prop := x.pool = [] ∧ x.noBurst = true ∧ x.allClosed = true

/-- The state with a stream's entry replaced. -/
def withStream (s : State) (i : StreamIx) (e : StreamEntry) : State :=
  { s with intake := { s.intake with streams := s.intake.streams.set i e } }

/-- The state with a stream's next to send replaced. -/
def withNext (s : State) (i : StreamIx) (n : OrderNo) : State :=
  { s with ret := { s.ret with nextToSend := s.ret.nextToSend.set i n } }

/-- The Link Port after the acceptance of the packet numbered `n` (R169, R171). -/
def accepted (l : Link) (n : SeqNo) : Link :=
  { l with expected := n + 1, nakOutstanding := false, ackPending := some n, granted := l.granted - 1,
           owed := if l.granted = 0 then l.owed - 1 else l.owed }

/-- The long-command record that a command of packet `q` fills at its acceptance (R158). -/
def record (n : LongCommand) (q : QueuedPacket) : Option LongRecord :=
  some ⟨n, q.packet.stream, q.packet.tag, q.order, true⟩

/-- The entries that a column command for `e`, at position `i`, leaves in the pool: `e` is gone, and every older entry of
its bank has gained 1 in bypass_count, up to 8, and is starved at 8 (R47, R76). -/
def passedOver (pool : List PoolEntry) (i : Nat) (e : PoolEntry) : List PoolEntry :=
  (pool.take i).map (fun o => if o.bank = e.bank then
    { o with bypass := min 8 (o.bypass + 1), starved := o.starved || decide (8 ≤ o.bypass + 1) } else o)
  ++ pool.drop (i + 1)

/-- Live region `i` is the first that holds the address. -/
abbrev LiveRegion (s : State) (a : HostAddr) (i : Fin 16) : Prop :=
  s.map.liveRegions[i].holds a = true ∧ ∀ j : Fin 16, j < i → s.map.liveRegions[j].holds a = false

/-- The channel states that accept requests (R28). -/
abbrev Accepts (st : ChanState) : Prop :=
  st ∈ [ChanState.active, .doze, .retainPending, .retained, .waking]

/-! ## The form of a packet (file 11) -/

/-- Payload bytes `i` to `j` are zero. -/
abbrev ZeroBytes (b : List Byte) (i j : Nat) : Prop := ∀ k, i ≤ k → k ≤ j → b.getD k 0 = 0

/-- A field of `n` bytes from payload byte `i`, least significant byte first (file 11, introduction). -/
abbrev FieldAt {w : Nat} (b : List Byte) (i n : Nat) (v : BitVec w) : Prop :=
  ∀ k, k < n → v.extractLsb' (8 * k) 8 = b.getD (i + k) 0

/-- A packet of malformed form (R180): its kind code is none of the six that the host may send, its payload has another
length than its kind's (file 11, section 11.2), or a reserved field (section 11.3) is not zero. -/
def Malformed (p : Packet) : Prop :=
  p.kind ∉ [0x01#8, 0x02#8, 0x03#8, 0x04#8, 0x05#8, 0x06#8] ∨
  (p.kind = 0x01 ∧ ¬(p.payload.length = 8 ∧ ZeroBytes p.payload 5 7)) ∨
  (p.kind = 0x02 ∧ ¬(p.payload.length = 72 ∧ ZeroBytes p.payload 6 7)) ∨
  (p.kind = 0x03 ∧ p.payload.length ≠ 0) ∨
  (p.kind = 0x04 ∧ ¬(p.payload.length = 4 ∧ ZeroBytes p.payload 3 3)) ∨
  (p.kind = 0x05 ∧ ¬(p.payload.length = 8 ∧ ZeroBytes p.payload 3 3)) ∨
  (p.kind = 0x06 ∧ ¬(p.payload.length = 8 ∧ (∀ n, 1 ≤ n → n ≤ 7 → (p.payload.getD 2 0).getLsbD n = false) ∧
    ZeroBytes p.payload 3 3 ∧ ((p.payload.getD 2 0).getLsbD 0 = false → ZeroBytes p.payload 4 7)))

/-! ## The management tables (file 11, sections 11.4 and 11.5) -/

/-- Yes as 1, no as 0. -/
def flag (b : Bool) : Word32 := if b then 1 else 0

/-- A number as a 32-bit field. -/
abbrev word (n : Nat) : Word32 := BitVec.ofNat 32 n

/-- The fields of a region entry, in the order of their indexes (file 02, section 2.1). -/
def regionFields (r : Region) : List Word32 :=
  [flag r.valid, r.base.extractLsb' 0 32, word (r.base.toNat / 2 ^ 32), r.limit.extractLsb' 0 32,
    word (r.limit.toNat / 2 ^ 32), word r.layout, word r.rowBase, word r.streams.toNat, flag r.writable]

/-- The fields of a layout entry (file 02, section 2.1). -/
def layoutFields (l : Layout) : List Word32 :=
  [match l.mode with | .ch0 => 0 | .ch1 => 1 | .split => 2, word l.granuleK]

/-- The 23 settings of a channel (file 07, section 7.4). -/
def settingFields (x : Settings) : List Word32 :=
  [x.openToAccess, x.openMin, x.closeTime, x.openCycle, x.openSpacing, x.windowTime, x.burstTime, x.readReturn,
    x.writeRecovery, x.writeToRead, x.readToWrite, x.refreshTime, x.refreshInterval, x.trimShort, x.trimLong,
    x.dozeExit, x.retainExitShort, x.retainExitLong, x.settleTime, x.rowHold, x.idleTimeout, x.powerupWait,
    x.rowsPerBank].map word

/-- The MAINTENANCE settings (R154). -/
def maintenanceFields (m : MaintSettings) : List Word32 :=
  [m.urgencyThreshold, m.trimReach, m.tempSens, m.voltSens, m.voltDrift, m.trimMinMs, m.trimMaxMs, m.trimGraceUs,
    m.staleTimeoutMs, m.noticeEnable].map word

/-- STREAMS (R3): order_mode, manager, notice_target, outstanding_tags, next_order, flushes_waiting. -/
def streamFields (s : State) (i : StreamIx) : List Word32 :=
  [match (s.stream i).orderMode with | .relaxed => 0 | .strict => 1, flag (s.stream i).manager,
    flag (s.stream i).noticeTarget, word (s.intake.tags.filter fun t => t.1 = i).length,
    word (s.stream i).nextOrder.toNat, word (s.stream i).flushes.length]

/-- TEMPERATURE (R85): report, reported, band, stale, drift, previous_report. -/
def temperatureFields (t : TempRecord) : List Word32 :=
  [BitVec.ofInt 32 (t.last.getD 0), flag t.last.isSome, match t.band with | .normal => 0 | .hot => 1 | .over => 2,
    flag t.stale, word t.drift, BitVec.ofInt 32 (t.prev.getD 0)]

/-- CHANNEL_STATUS (R155): state, refresh_debt, urgent, pool_occupancy, window_entries, trim_remaining (R114: the whole ms
to the expiry of the trim timer, rounded up, at least 1, and 0 while it does not run; log entry 14), long_command. -/
def statusFields (x : Channel) (now : Nat) : List Word32 :=
  [match x.state with
    | .uninit => 0 | .starting => 1 | .active => 2 | .doze => 3 | .holding => 4 | .held => 5
    | .retainPending => 6 | .retained => 7 | .waking => 8,
    BitVec.ofInt 32 x.debt, flag x.urgent, word x.pool.length, word x.window.length,
    match x.trimTimer with | .running _ e => word (max 1 ((e - now + 3999999) / 4000000)) | _ => 0,
    match x.longCmd with
    | none => 0
    | some r => (match r.command with
      | .init => 1 | .hold => 2 | .resume => 3 | .retain => 4 | .wake => 5 | .trimLong => 6)]

/-- COUNTERS (R156). -/
def counterFields (k : Counters) : List Word32 :=
  [k.opens, k.hits, k.refreshes, k.pullIns, k.overdue, k.trims, k.correctedWords, k.poisonedWords, k.dozes]

/-- FAULT (R166): recorded, kind, channel (2 where there is none), detail, count; all 0 while nothing is recorded. -/
def faultFields (f : Option FaultRecord) : List Word32 :=
  match f with
  | none => [0, 0, 0, 0, 0]
  | some f => [1, word f.kind.number, match f.chan with | some c => word c.val | none => 2, f.detail, word f.count]

/-- LINK_STATUS (R179): link_state, ingress_occupied, credits_granted, credits_owed, response_credits, replay_occupied,
attempt_count and the six counters. -/
def linkFields (s : State) : List Word32 :=
  [match s.link.state with | .down => 0 | .training => 1 | .up => 2, word s.intake.queue.length, word s.link.granted,
    word s.link.owed, word s.link.respCredits, word s.link.replay.length, word s.link.attempts,
    s.link.counters.crcErrors, s.link.counters.naksSent, s.link.counters.duplicates, s.link.counters.outOfSequence,
    s.link.counters.replays, s.link.counters.linkResets]

/-- The fields of an entry of a management table in the order of their indexes; none where the table or the entry names
nothing. -/
def entryFields (s : State) (table entry : Nat) : List Word32 :=
  match table with
  | 0 => if entry = 0 then [0x2408, 1, 2, 4, 64, 48, 32, 16, 4, 32] else []
  | 1 => if h : entry < 4 then streamFields s ⟨entry, h⟩ else []
  | 2 => if h : entry < 16 then regionFields s.map.shadowRegions[entry] else []
  | 3 => if h : entry < 16 then regionFields s.map.liveRegions[entry] else []
  | 4 => if h : entry < 4 then layoutFields s.map.shadowLayouts[entry] else []
  | 5 => if h : entry < 4 then layoutFields s.map.liveLayouts[entry] else []
  | 6 => if h : entry < 2 then settingFields (s.chan ⟨entry, h⟩).settings else []
  | 7 => if entry = 0 then maintenanceFields s.mgmt.settings else []
  | 8 => if entry = 0 then temperatureFields s.mgmt.temp else []
  | 9 => if h : entry < 2 then statusFields (s.chan ⟨entry, h⟩) s.now else []
  | 10 => if h : entry < 2 then counterFields (s.chan ⟨entry, h⟩).counters else []
  | 11 => if entry = 0 then faultFields s.mgmt.fault else []
  | 12 => if entry = 0 then [word s.map.epoch.toNat, word s.map.current, word s.map.previous] else []
  | 13 => if entry = 0 then linkFields s else []
  | _ => []

/-! ## The ranges of the writable fields -/

/-- The value lies in the range, lowest and highest value, that a table gives the field at an index. -/
abbrev FieldRange (ranges : List (Nat × Nat)) (field v : Nat) : Prop :=
  (ranges.getD field (1, 0)).1 ≤ v ∧ v ≤ (ranges.getD field (1, 0)).2

/-- The fields of a region entry (file 02, section 2.1): valid, base_low, base_high, limit_low, limit_high, layout,
row_base, streams, writable. -/
def regionRanges : List (Nat × Nat) :=
  [(0, 1), (0, 0xFFFFFFFF), (0, 255), (0, 0xFFFFFFFF), (0, 255), (0, 7), (0, 65535), (0, 15), (0, 1)]

/-- The fields of a layout entry (file 02, section 2.1): channel_mode, granule_k. -/
def layoutRanges : List (Nat × Nat) := [(0, 2), (0, 6)]

/-- The entry and field index lie within the map table (file 02, section 2.1). -/
abbrev MapIndex (a : MgmtAddr) : Prop :=
  (a.table ∈ [2, 3] ∧ a.entry ≤ 15 ∧ a.field ≤ 8) ∨ (a.table ∈ [4, 5] ∧ a.entry ≤ 3 ∧ a.field ≤ 1)

/-- The value lies in the range of the shadow table's field. -/
abbrev MapRange (a : MgmtAddr) (v : Nat) : Prop :=
  (a.table = 2 ∧ FieldRange regionRanges a.field v) ∨ (a.table = 4 ∧ FieldRange layoutRanges a.field v)

/-- The value lies in the range of the channel setting (file 07, section 7.4). -/
abbrev SettingRange (field v : Nat) : Prop :=
  (field ≤ 20 ∧ v ≤ 1000000) ∨ (field = 21 ∧ v ≤ 10000) ∨ (field = 22 ∧ v ∈ [16384, 32768, 65536])

/-- The maintenance settings (R104, R154) in the order of their indexes: urgency_threshold, trim_reach, temp_sens,
volt_sens, volt_drift, trim_min_ms, trim_max_ms, trim_grace_us, stale_timeout_ms, notice_enable. -/
def maintenanceRanges : List (Nat × Nat) :=
  [(1, 8), (1, 100000), (0, 100000), (0, 100000), (0, 10000), (1, 60000), (1, 60000), (1, 100000), (100, 10000), (0, 255)]

/-- A write of the value to the maintenance setting passes: its range, and trim_min_ms at most trim_max_ms after it
(R104). -/
abbrev MaintenancePasses (m : MaintSettings) (field v : Nat) : Prop :=
  FieldRange maintenanceRanges field v ∧ (field = 5 → v ≤ m.trimMaxMs) ∧ (field = 6 → m.trimMinMs ≤ v)

/-! ## The codes of responses (file 11, section 11.3) -/

/-- The number of a MGMT_RESP code. -/
def mgmtCodeNumber : MgmtCode → Byte
  | .ok => 0 | .busy => 1 | .badIndex => 2 | .readOnlyField => 3 | .badValue => 4 | .notHeld => 5 | .badState => 6
  | .badTiming => 7 | .badLayout => 8 | .overlap => 9 | .outOfRows => 10 | .alias_ => 11 | .geometryConflict => 12
  | .cancelled => 13

/-- The number of an ERROR_RESP code. -/
def errorCodeNumber : ErrCode → Byte
  | .malformed => 1 | .unmapped => 2 | .denied => 3 | .readOnly => 4 | .notReady => 5 | .channelHeld => 6
  | .flushLimit => 7

/-! ## The resets -/

/-- The completion slots of `t` are those of `s` after a reset (R60, R149): the slot of a READ in a pool and a FILLED slot
are FREE, the slot of an issued read is in DISCARD, and FREE and DISCARD stay. -/
def SlotsReset (s t : State) : Prop := ∀ j : SlotIx,
  ((∃ c : Chan, ∃ e ∈ (s.chan c).pool, e.kind = .read j) → t.ret.slots[j] = .free) ∧
  ((∀ c : Chan, ∀ e ∈ (s.chan c).pool, e.kind ≠ .read j) → t.ret.slots[j] =
    match s.ret.slots[j] with
    | .reserved r | .discard r => .discard r
    | .free | .filled _ _ _ => .free)

/-- A bank at the discard of its channel's pool: an OPEN one starts row_hold if it does not run (R60; log entry 16). -/
def bankEmptied (k : Bank) (now rowHold : Nat) : Bank :=
  match k.state with
  | .opened _ => { k with rowHold := if k.rowHold.isRunning then k.rowHold else .running now (now + rowHold) }
  | _ => k

/-- The write burst on channel `c`'s bus at a reset: marked for discard when its WRITE_DONE was still in the response
queue (R149; log entry 25). -/
def burstAtReset (queue : List Response) (c : Chan) (w : WriteBurst) : WriteBurst :=
  { w with discard := w.discard || queue.any fun r =>
      r.stream == w.stream && r.tag == w.tag && r.order == w.order
        && (match r.body with | .writeDone _ d => d == c | _ => false) }

/-! ## What the part does by itself -/

/-- An expiry of the bank is due: its timers, transition in OPENING and CLOSING alone. -/
def BankWork (k : Bank) (now : Nat) : Prop :=
  (k.transition.due now = true ∧ ((∃ row, k.state = .opening row) ∨ ∃ row, k.state = .closing row)) ∨
  ∃ t ∈ [k.openMin, k.openCycle, k.writeRecovery, k.rowHold], t.due now = true

/-- Something of channel `c` is due: a timer (idle in ACTIVE alone), the end of a burst or of an operation, the arrival
of a read's data, the expiry of a window entry, an expiry of a bank, or a grant of the selector. -/
def ChanWork (s : State) (c : Chan) : Prop :=
  ∃ x, x = s.chan c ∧
    ((∃ t ∈ [x.columnSpacing, x.writeToRead, x.readToWrite, x.openSpacing, x.interval, x.trimTimer, x.graceTimer,
        x.dozeExit, x.powerupWait, x.retainExitShort, x.retainExitLong], t.due s.now = true) ∨
      (x.state = .active ∧ x.idleTimer.due s.now = true) ∨
      (∃ w, x.writeBurst = some w ∧ w.expires ≤ s.now) ∨
      (∃ e, x.readBurst = some e ∧ e ≤ s.now) ∨
      (x.readBurst = none ∧ ∃ r rs, x.issued = r :: rs ∧ r.expires ≤ s.now) ∨
      (∃ m, x.maint = some m ∧ m.expires ≤ s.now) ∨
      (∃ w ∈ x.window, w.expires ≤ s.now) ∨
      (∃ b, BankWork (x.bank b) s.now) ∨
      ∃ g, s.grant c = some g)

/-- The head of the ingress queue can be taken: a READ or WRITE that does not wait (R13), or any other packet. -/
def HeadWork (s : State) : Prop :=
  ∃ q rest, s.intake.queue = q :: rest ∧
    (∀ a, requestOf q.packet = .read a → exec .read s ≠ .next s) ∧
    (∀ a en d, requestOf q.packet = .write a en d → exec .write s ≠ .next s)

/-- Something the part does by itself is due at this instant (log entry 2). -/
def WorkDue (s : State) : Prop :=
  (∃ c, ChanWork s c) ∨ HeadWork s ∨ s.mgmt.temp.staleTimer.due s.now = true ∨ s.link.replayTimer.due s.now = true

/-! ## The choice of the selector: maintenance (R95, R96, R108, R111, R120, R126, R130) -/

/-- The channel's state allows refresh (R63, R98): in WAKING only after retain_exit_short. -/
abbrev RefreshState (x : Channel) : Prop :=
  x.state ∈ [ChanState.active, .holding, .held, .retainPending] ∨ (x.state = .waking ∧ x.seqStep ≠ .shortExit)

/-- The long trim of STARTING or WAKING is waiting to be issued (R120, R133). -/
abbrev LongTrimWaits (x : Channel) : Prop := (x.state = .starting ∨ x.state = .waking) ∧ x.seqStep = .longTrim

/-- A trim is due, in the sense of R95. -/
abbrev TrimDue (x : Channel) : Prop := x.shortTrimDue = true ∨ x.longTrimRequest = true ∨ LongTrimWaits x

/-- An urgent refresh may be issued (R95, first case). -/
abbrev UrgentMay (x : Channel) : Prop := RefreshState x ∧ x.urgent = true

/-- A settings write step may be issued: at its step of STARTING (R120), or in HELD for a RESUME with settings_pending
(R126). -/
abbrev SettingsMay (x : Channel) : Prop :=
  (x.state = .starting ∧ x.seqStep = .settingsWrite) ∨
  (x.state = .held ∧ x.settingsPending = true ∧ x.longCmd.map (·.command) = some .resume)

/-- The retention entry step may be issued (R130). -/
abbrev RetentionMay (x : Channel) : Prop :=
  x.state = .retainPending ∧ x.pool = [] ∧ x.noBurst = true ∧ x.shortTrimDue = false ∧ x.urgent = false

/-- A long trim may be issued: for a TRIM_LONG in ACTIVE and HELD, or where STARTING or WAKING waits for it (R96, R111,
R113). -/
abbrev LongTrimMay (x : Channel) : Prop :=
  x.urgent = false ∧ ((x.state ∈ [ChanState.active, .held] ∧ x.longTrimRequest = true) ∨ LongTrimWaits x)

/-- A short trim may be issued (R96, R108, R113). -/
abbrev ShortTrimMay (x : Channel) : Prop :=
  x.urgent = false ∧ x.shortTrimDue = true ∧ x.state ∈ [ChanState.active, .holding, .held, .retainPending]

/-- A non-urgent refresh may be issued (R95, second case). -/
abbrev NonUrgentMay (x : Channel) : Prop := RefreshState x ∧ 1 ≤ x.debt ∧ x.urgent = false ∧ ¬TrimDue x

/-- A pull-in may be issued (R95, third case). -/
abbrev PullInMay (x : Channel) : Prop :=
  RefreshState x ∧ -7 ≤ x.debt ∧ x.debt ≤ 0 ∧ x.pool = [] ∧ x.noBurst = true ∧ ¬TrimDue x ∧ x.state ≠ .retainPending

/-- No maintenance operation or step may be issued. -/
abbrev NoMaintenance (x : Channel) : Prop :=
  ¬UrgentMay x ∧ ¬SettingsMay x ∧ ¬RetentionMay x ∧ ¬LongTrimMay x ∧ ¬ShortTrimMay x ∧ ¬NonUrgentMay x ∧ ¬PullInMay x

/-- The grants of a maintenance operation or step. -/
abbrev IsMaintenance (g : Grant) : Prop :=
  (∃ p, g = .refresh p) ∨ g = .shortTrim ∨ g = .longTrim ∨ g = .settingsWrite ∨ g = .retentionEntry

/-! ## The choice of the selector: opens, closes and column commands (R49, R51, R53, R65 to R67, R73 to R78) -/

/-- A maintenance force is in effect (R78). -/
abbrev Forced (x : Channel) : Prop := x.urgent = true ∨ x.graceForce = true ∨ x.longTrimRequest = true

/-- The conditions of a complete hold drain (R125). -/
abbrev DrainConditions (x : Channel) : Prop := x.state = .holding ∧ AtRest x ∧ x.dozeExit.isRunning = false

/-- The bank meets the conditions of a close (R53). -/
abbrev MayClose (k : Bank) : Prop :=
  (∃ row, k.state = .opened row) ∧ k.openMin.isRunning = false ∧ k.writeBurst = false ∧ k.writeRecovery.isRunning = false

/-- The bank is CLOSED and it, open spacing and the window list allow its open (R49, R70, R71). -/
abbrev MayOpen (s : State) (x : Channel) (b : BankIx) : Prop :=
  (x.bank b).state = .closed ∧ (x.bank b).openCycle.isRunning = false ∧ x.openSpacing.isRunning = false ∧
  x.window.length < (if s.mgmt.temp.band = .over then 2 else 4)

/-- The column command of the entry `e` at position `i` of the pool is allowed: its bank OPEN on its row (R51), no older
entry of its line with a WRITE among the two (R57), no older starved entry of its bank (R77), and the data bus (R65 to
R67; that a write waits for the write burst before it is log entry 8). -/
abbrev MayColumn (s : State) (x : Channel) (i : Nat) (e : PoolEntry) : Prop :=
  (x.bank e.bank).state = .opened e.row ∧ x.columnSpacing.isRunning = false ∧ x.writeBurst = none ∧
  (∀ o ∈ x.pool.take i, o.bank = e.bank → o.starved = false) ∧
  (∀ o ∈ x.pool.take i, o.bank = e.bank → o.row = e.row → o.col = e.col → o.isWrite = false ∧ e.isWrite = false) ∧
  (e.isWrite = false → x.writeToRead.isRunning = false) ∧
  (e.isWrite = true → x.readBurst = none ∧ x.readToWrite.isRunning = false ∧
    ∀ r ∈ x.issued, x.settings.burstTime ≤ r.expires - s.now)

/-- The next step of the starved entry at a position, the oldest starved one of its bank (R77). -/
def StarvedStep (s : State) (x : Channel) (i : Nat) (e : PoolEntry) (g : Grant) : Prop :=
  e.starved = true ∧ (∀ o ∈ x.pool.take i, o.bank = e.bank → o.starved = false) ∧
  ((MayColumn s x i e ∧ g = .column i) ∨
   (MayClose (x.bank e.bank) ∧ (x.bank e.bank).state ≠ .opened e.row ∧ g = .closeBank e.bank) ∨
   (MayOpen s x e.bank ∧ g = .openRow e.bank e.row))

/-- A column command for a row hit (R74, item 3). -/
def HitStep (s : State) (x : Channel) (i : Nat) (e : PoolEntry) (g : Grant) : Prop :=
  MayColumn s x i e ∧ g = .column i

/-- The bank may be closed and no entry of its list has its open row. -/
abbrev ClosesFreely (x : Channel) (b : BankIx) : Prop :=
  MayClose (x.bank b) ∧ ∀ o ∈ x.pool, o.bank = b → (x.bank b).state ≠ .opened o.row

/-- A close of kind (a), for the oldest entry of the bank's list (R75). -/
def ClearStep (x : Channel) (i : Nat) (e : PoolEntry) (g : Grant) : Prop :=
  ClosesFreely x e.bank ∧ (∀ o ∈ x.pool.take i, o.bank ≠ e.bank) ∧ g = .closeBank e.bank

/-- A close of kind (b) or (c) (R75). -/
abbrev IdleClose (x : Channel) (b : BankIx) : Prop :=
  ClosesFreely x b ∧
  ((x.bank b).holdExpired = true ∨ (x.state ∈ [ChanState.holding, .retainPending] ∧ ∀ o ∈ x.pool, o.bank ≠ b))

/-- An open for the oldest entry of a CLOSED bank (R74, item 5; R75). -/
def OpenStep (s : State) (x : Channel) (i : Nat) (e : PoolEntry) (g : Grant) : Prop :=
  MayOpen s x e.bank ∧ (∀ o ∈ x.pool.take i, o.bank ≠ e.bank) ∧ g = .openRow e.bank e.row

/-- `g` is the step of the oldest entry of the pool that has one. -/
def Oldest (x : Channel) (stepOf : Nat → PoolEntry → Grant → Prop) (g : Grant) : Prop :=
  ∃ i e, x.pool[i]? = some e ∧ stepOf i e g ∧ ∀ j o h, j < i → x.pool[j]? = some o → ¬stepOf j o h

/-- No entry of the pool has a step. -/
def NoEntry (x : Channel) (stepOf : Nat → PoolEntry → Grant → Prop) : Prop :=
  ∀ i e g, x.pool[i]? = some e → ¬stepOf i e g

/-- `b` is the lowest bank with a property. -/
abbrev Lowest (p : BankIx → Prop) (b : BankIx) : Prop := p b ∧ ∀ a, a < b → ¬p a

/-! ## The laws -/

/-- The first law (R91) with the urgency of R94: each debt is from −8 to 8, a refresh in progress never starts from −8,
and urgent is yes exactly while the debt has reached the threshold. -/
def DebtLaw (s : State) : Prop :=
  1 ≤ s.mgmt.settings.urgencyThreshold ∧ s.mgmt.settings.urgencyThreshold ≤ 8 ∧
  ∀ c : Chan, -8 ≤ (s.chan c).debt ∧ (s.chan c).debt ≤ 8 ∧
    ((s.chan c).urgent = true ↔ (s.mgmt.settings.urgencyThreshold : Int) ≤ (s.chan c).debt) ∧
    (∀ m, (s.chan c).maint = some m → m.op = .refresh → -7 ≤ (s.chan c).debt)

/-- The second law (R9): no two outstanding requests have the same stream and tag. -/
def TagLaw (s : State) : Prop := s.intake.tags.Nodup

/-- The third law (R171): while the link is UP, occupied ingress slots plus granted plus owed equal 64; else all three
are 0; and the part's HELLO waits exactly in TRAINING (R168). -/
def CreditLaw (s : State) : Prop :=
  (s.link.state = .up → s.intake.queue.length + s.link.granted + s.link.owed = 64) ∧
  (s.link.state ≠ .up → s.intake.queue = [] ∧ s.link.granted = 0 ∧ s.link.owed = 0) ∧
  (s.link.helloPending = true ↔ s.link.state = .training)

/-- The window list holds at most 4 entries (R71). -/
def WindowLaw (s : State) : Prop := ∀ c : Chan, (s.chan c).window.length ≤ 4

/-- The eighth law (R96, R58) and what the channel states are entered with: a maintenance operation runs only while
every bank is CLOSED; a channel in UNINIT, STARTING, DOZE, HELD or RETAINED, or with its idle timer running, is at rest;
in WAKING every bank is CLOSED and no burst is in flight. -/
def RestLaw (s : State) : Prop :=
  ∀ c : Chan,
    ((s.chan c).maint ≠ none → (s.chan c).allClosed = true) ∧
    ((s.chan c).state ∈ [ChanState.uninit, .starting, .doze, .held, .retained] → AtRest (s.chan c)) ∧
    ((s.chan c).idleTimer.isRunning = true → AtRest (s.chan c)) ∧
    ((s.chan c).state = .waking → (s.chan c).noBurst = true ∧ (s.chan c).allClosed = true)

/-- The twelfth law (R43): a pool holds at most 32 entries. -/
def PoolLaw (s : State) : Prop := ∀ c : Chan, (s.chan c).pool.length ≤ 32

/-- Passing over (R76): a bypass count is at most 8, an entry is starved exactly at 8, and in a bank's list no entry's
count is below a younger one's. -/
def BypassLaw (s : State) : Prop :=
  ∀ c : Chan, (∀ e ∈ (s.chan c).pool, e.bypass ≤ 8 ∧ (e.starved = true ↔ e.bypass = 8)) ∧
    (s.chan c).pool.Pairwise fun o e => o.bank = e.bank → e.bypass ≤ o.bypass

/-- Exactly one stream is the notice target, and at least one is a manager (R2). -/
def StreamLaw (s : State) : Prop :=
  (∃ i : StreamIx, ∀ j : StreamIx, (s.stream j).noticeTarget = true ↔ j = i) ∧
  (∃ i : StreamIx, (s.stream i).manager = true)

/-- The replay buffer (R173 to R175): at most 32 packets with consecutive numbers up to next_seq − 1, the replay point
one of them or none, the replay timer running exactly while it holds a packet, at most 4 attempts; and the response
credits at most 255 (R172). -/
def ReplayLaw (s : State) : Prop :=
  s.link.replay.length ≤ 32 ∧
  (∀ (i : Nat) (p : SentPacket), s.link.replay[i]? = some p →
    p.seq = s.link.nextSeq - BitVec.ofNat 8 (s.link.replay.length - i)) ∧
  (∀ n, s.link.replayPoint = some n → ∃ p ∈ s.link.replay, p.seq = n) ∧
  (s.link.replayTimer.isRunning = true ↔ s.link.replay ≠ []) ∧
  s.link.attempts ≤ 4 ∧ s.link.respCredits ≤ 255

/-- The kinds of notice that name a channel (file 09, section 9.7). -/
def perChannel (k : NoticeKind) : Bool := k == .refreshOverdue || k == .poisoned

/-- The notice set (R160, R161): each pair has a channel exactly when its kind has one, the pairs stand in the order of
sending with none twice, and the notice wait count is at most 8, and 0 while the set is empty (R144). -/
def NoticeLaw (s : State) : Prop :=
  (∀ n ∈ s.mgmt.notices, n.chan.isSome = perChannel n.kind) ∧
  (s.mgmt.notices.map Notice.rank).Pairwise (· < ·) ∧
  s.ret.noticeWait ≤ 8 ∧ (s.mgmt.notices = [] → s.ret.noticeWait = 0)

/-- The fault record (R163): a count from 1 to 255, and a fault kind. -/
def FaultLaw (s : State) : Prop :=
  ∀ f, s.mgmt.fault = some f →
    1 ≤ f.count ∧ f.count ≤ 255 ∧ f.kind ∈ [NoticeKind.refreshOverdue, .overrun, .tagReuse, .replayFail]

/-- The DRAM contents of both channels keep their canonical form (log entry 5). -/
def DramLaw (s : State) : Prop := ∀ c : Chan, dramWf (s.chan c).dram = true

/-- The completion slots of the READ entries of a pool. -/
def poolSlots (x : Channel) : List SlotIx :=
  x.pool.filterMap fun e => match e.kind with | .read i => some i | .write _ _ => none

/-- The completion slots of the issued reads of a channel whose data has not arrived. -/
def issuedSlots (x : Channel) : List SlotIx := x.issued.map (·.slot)

/-- The completion slots that the response queue's READ_DATA entries name. -/
def queueSlots (r : ReturnUnit) : List SlotIx :=
  r.queue.filterMap fun e => match e.body with | .readData _ i => some i | _ => none

/-- The slot holds checked data. -/
def Slot.isFilled : Slot → Bool
  | .filled _ _ _ => true
  | _ => false

/-- The slot waits for data: RESERVED or DISCARD. -/
def Slot.waits : Slot → Bool
  | .reserved _ => true
  | .discard _ => true
  | _ => false

/-- The slot is RESERVED. -/
def Slot.isReserved : Slot → Bool
  | .reserved _ => true
  | _ => false

/-- The sixth law (R137): no slot is named by two reads; a read in a pool has a RESERVED slot; the slots that wait for
data are exactly those of the reads in the pools and of the issued reads; the FILLED slots are exactly those of the
READ_DATA entries of the response queue. -/
def SlotLaw (s : State) : Prop :=
  (poolSlots (s.chan 0) ++ issuedSlots (s.chan 0) ++ poolSlots (s.chan 1) ++ issuedSlots (s.chan 1)
    ++ queueSlots s.ret).Nodup ∧
  (∀ c : Chan, ∀ i ∈ poolSlots (s.chan c), Slot.isReserved s.ret.slots[i] = true) ∧
  (∀ i : SlotIx, Slot.waits s.ret.slots[i] = true ↔
    ∃ c : Chan, i ∈ poolSlots (s.chan c) ∨ i ∈ issuedSlots (s.chan c)) ∧
  (∀ i : SlotIx, Slot.isFilled s.ret.slots[i] = true ↔ i ∈ queueSlots s.ret)

/-- The request of an answerable long command. -/
def longTags (x : Channel) : List (StreamIx × TagIx) :=
  match x.longCmd with
  | some r => if r.answerable then [(r.stream, r.tag)] else []
  | none => []

/-- The WRITEs that wait in a pool. -/
def poolWrites (x : Channel) : List PoolEntry := x.pool.filter PoolEntry.isWrite

/-- The read that a slot is reserved for. -/
def Slot.reservedFor : Slot → Option ReadRecord
  | .reserved r => some r
  | _ => none

/-- The requests a response is still owed to (R18): packets in the ingress queue, WRITEs in the pools, reads whose slot
is RESERVED, flush records, answerable long commands, and the responses that are ready. -/
def owedTags (s : State) : List (StreamIx × TagIx) :=
  s.intake.queue.map (fun q => (q.packet.stream, q.packet.tag))
  ++ chanIxs.flatMap (fun c => (poolWrites (s.chan c)).map (fun e => (e.stream, e.tag)) ++ longTags (s.chan c))
  ++ (slotIxs.filterMap fun i => Slot.reservedFor s.ret.slots[i]).map (fun r => (r.stream, r.tag))
  ++ streamIxs.flatMap (fun i => (s.stream i).flushes.map fun f => (i, f.tag))
  ++ s.ret.queue.map (fun r => (r.stream, r.tag))

/-- The tenth law (R18, R9): the outstanding tags are exactly the requests a response is still owed to, each owed once. -/
def OwedLaw (s : State) : Prop := s.intake.tags.Perm (owedTags s)

/-- The stamp that a slot that is not FREE holds. -/
def Slot.epoch : Slot → Option Epoch
  | .free => none
  | .reserved r => some r.epoch
  | .filled r _ _ => some r.epoch
  | .discard r => some r.epoch

/-- The stamp of a write whose burst a reset has marked for discard. -/
def discardedStamp (x : Channel) : Option Epoch :=
  match x.writeBurst with
  | some w => if w.discard then some w.epoch else none
  | none => none

/-- The stamp of a WRITE_DONE that is ready. -/
def Response.writeStamp (r : Response) : Option Epoch :=
  match r.body with
  | .writeDone e _ => some e
  | _ => none

/-- The stamps of the requests that have been taken and have not retired (R36 to R38): WRITEs in the pools, discarded
writes on the bus, reads that hold a slot, and WRITE_DONEs that are ready. -/
def stamps (s : State) : List Epoch :=
  chanIxs.flatMap (fun c => (poolWrites (s.chan c)).map (·.epoch) ++ (discardedStamp (s.chan c)).toList)
  ++ (slotIxs.filterMap fun i => Slot.epoch s.ret.slots[i]) ++ s.ret.queue.filterMap Response.writeStamp

/-- The fifth law (R36): every stamp is that of the current epoch or of the one before it, and the two outstanding counts
say how many of each there are; with the stamps that one request holds in two places: a READ in a pool and its slot, a
READ_DATA and its slot, a WRITE_DONE and its burst, which is not marked for discard before the WRITE_DONE is gone. -/
def EpochLaw (s : State) : Prop :=
  (∀ e ∈ stamps s, e = s.map.epoch ∨ e = s.map.epoch - 1) ∧
  s.map.current = (stamps s).count s.map.epoch ∧ s.map.previous = (stamps s).count (s.map.epoch - 1) ∧
  (∀ c : Chan, ∀ e ∈ (s.chan c).pool, ∀ i, e.kind = .read i → Slot.epoch s.ret.slots[i] = some e.epoch) ∧
  (∀ r ∈ s.ret.queue, ∀ e i, r.body = .readData e i → Slot.epoch s.ret.slots[i] = some e) ∧
  (∀ r ∈ s.ret.queue, ∀ e c w, r.body = .writeDone e c → (s.chan c).writeBurst = some w →
    w.discard = false ∧ (w.carries r = true → e = w.epoch))

/-- All the laws together. -/
def Laws (s : State) : Prop :=
  DebtLaw s ∧ TagLaw s ∧ CreditLaw s ∧ SlotLaw s ∧ OwedLaw s ∧ EpochLaw s ∧ WindowLaw s ∧ RestLaw s ∧ PoolLaw s ∧
  BypassLaw s ∧ StreamLaw s ∧ ReplayLaw s ∧ NoticeLaw s ∧ FaultLaw s ∧ DramLaw s

/-- A law is kept by every step. -/
def Kept (law : State → Prop) : Prop := ∀ s t : State, law s → step s = .next t → law t

/-- A run is safe while it neither faults nor is refused. -/
def Safe (o : Host.Outcome State Fault Refusal) : Prop := ∃ t, o = .next t

end Sys2Proof.Safety
end

