-- ==== Sys2Proof/Certificates/Slice0/Obligations.lean ====
section
/-! DEFINITION. The statements for the provers. Each is about the commands of spec/opcode_table.json it names; most say
that the command answers a next state, which state, and so also what stays as it is. -/

section Statements

open Sys2Proof Sys2Proof.Machine Sys2Proof.Safety

/-! ## The step, and cold reset -/

/-- A step with a command at the front of the queue (the model's queue, log entry 24) is that command, whole, on the state
with the queue's rest. With no command waiting the model's own tick (log entry 2) idles while something the part does by
itself is due, and else lets one time unit pass. -/
def Obligations.StepRunsFrontCommand : Prop :=
  (∀ (c : Instr) (rest : List Instr) (s : State),
    step { s with pending := c :: rest } = exec c { s with pending := rest }) ∧
  (∀ s : State, s.pending = [] →
    (WorkDue s → step s = .next s) ∧ (¬WorkDue s → step s = .next { s with now := s.now + 1 }))

/-- COLD_RESET and the Return Unit (R148): every slot FREE, the queue empty, next to send 0, the wait count 0, no read
in flight, and the data-check counters 0. -/
def Obligations.ColdResetEmptiesReturnUnit : Prop :=
  ∀ s : State, ∃ t, exec .coldReset s = .next t ∧
    (∀ i : SlotIx, t.ret.slots[i] = .free) ∧ t.ret.queue = [] ∧
    (∀ i : StreamIx, t.ret.nextToSend[i] = 0) ∧ t.ret.noticeWait = 0 ∧
    ∀ c : Chan, (t.chan c).issued = [] ∧ (t.chan c).readBurst = none ∧
      (t.chan c).counters.correctedWords = 0 ∧ (t.chan c).counters.poisonedWords = 0

/-- COLD_RESET and the other blocks: the whole of the Link Port, the Intake, the Map Unit, the channels and the
Management Unit is at the values the spec gives after cold reset, and the time base at 0. The waiting commands stay; what
the spec does not name of a state (last packet, last command, columnSinceOpen, dramGen) is the model's (log entries 21, 26). -/
def Obligations.ColdResetRestoresBlocks : Prop :=
  ∀ s : State, ∃ t, exec .coldReset s = .next t ∧ t.pending = s.pending ∧ t.now = 0 ∧
    t.link = {
      state := .down, expected := 0, nakOutstanding := false, ackPending := none, nakPending := none, nextSeq := 0
      replay := [], replayPoint := none, replayTimer := .stopped, attempts := 0, granted := 0, owed := 0
      respCredits := 0, helloPending := false, counters := ⟨0, 0, 0, 0, 0, 0⟩, lastTx := none } ∧
    t.intake.queue = [] ∧ t.intake.tags = [] ∧
    (∀ i : StreamIx, t.stream i = ⟨.relaxed, i == 0, i == 0, 0, []⟩) ∧
    (∀ i : Fin 16, t.map.liveRegions[i] = ⟨false, 0, 0, 0, 0, 0, false⟩ ∧
      t.map.shadowRegions[i] = ⟨false, 0, 0, 0, 0, 0, false⟩) ∧
    (∀ i : Fin 4, t.map.liveLayouts[i] = ⟨.ch0, 0⟩ ∧ t.map.shadowLayouts[i] = ⟨.ch0, 0⟩) ∧
    t.map.epoch = 0 ∧ t.map.current = 0 ∧ t.map.previous = 0 ∧
    (∀ c : Chan, t.chan c = {
      pool := []
      banks := Vector.replicate 8 {
        state := .closed, transition := .stopped, openMin := .expired, openCycle := .expired, writeBurst := false
        writeRecovery := .expired, rowHold := .stopped, holdExpired := false, columnSinceOpen := false }
      columnSpacing := .expired, writeBurst := none, readBurst := none, issued := [], writeToRead := .expired
      readToWrite := .expired, openSpacing := .expired, window := [], maint := none
      debt := 0, interval := .stopped, urgent := false
      trimInterval := 1000, trimTimer := .stopped, shortTrimDue := false, graceTimer := .stopped, graceForce := false
      longTrimRequest := false
      state := .uninit
      settings := {
        openToAccess := 56, openMin := 144, closeTime := 56, openCycle := 200, openSpacing := 24, windowTime := 128
        burstTime := 16, readReturn := 56, writeRecovery := 64, writeToRead := 32, readToWrite := 24
        refreshTime := 720, refreshInterval := 30400, trimShort := 320, trimLong := 2560, dozeExit := 24
        retainExitShort := 760, retainExitLong := 4400, settleTime := 64, rowHold := 2000, idleTimeout := 8000
        powerupWait := 200, rowsPerBank := 65536 }
      settingsPending := false, idleTimer := .stopped, dozeExit := .stopped, powerupWait := .stopped
      retainExitShort := .stopped, retainExitLong := .stopped, seqStep := .none, longCmd := none
      counters := ⟨0, 0, 0, 0, 0, 0, 0, 0, 0⟩
      dram := [], dramGen := (s.chan c).dramGen + 1, lastCommand := none }) ∧
    t.mgmt.temp = ⟨none, 0, none, 0, .hot, false, 0, .stopped⟩ ∧ t.mgmt.notices = [] ∧ t.mgmt.fault = none ∧
    t.mgmt.settings = ⟨6, 500, 1000, 100, 0, 16, 1000, 1000, 1000, 255⟩

/-! ## The laws of the device -/

/-- All the laws hold in the state after reset. -/
def Obligations.LawsHoldAtReset : Prop := Laws State.reset

/-- The first law, kept by every step: each refresh debt stays from −8 to 8, and urgent says exactly whether it has
reached the threshold. -/
def Obligations.DebtLawKept : Prop := Kept DebtLaw

/-- The second law, kept by every step: no tag is outstanding twice in its stream. -/
def Obligations.TagLawKept : Prop := Kept TagLaw

/-- The third law, kept by every step: occupied slots plus granted plus owed are 64 while the link is UP. -/
def Obligations.CreditLawKept : Prop := Kept CreditLaw

/-- The sixth law, kept by every step: each completion slot that is not FREE belongs to exactly one read. -/
def Obligations.SlotLawKept : Prop := Kept SlotLaw

/-- The tenth law, kept by every step with the sixth: the outstanding tags are exactly the requests a response is still
owed to, each owed once. -/
def Obligations.OwedLawKept : Prop := Kept fun s => SlotLaw s ∧ OwedLaw s

/-- The fifth law, kept by every step with the second, sixth and tenth: requests are stamped with the current epoch or the
one before it, and the two outstanding counts count them. -/
def Obligations.EpochLawKept : Prop := Kept fun s => TagLaw s ∧ SlotLaw s ∧ OwedLaw s ∧ EpochLaw s

/-- The eighth law, kept by every step: maintenance runs only with every bank CLOSED; and what HELD, DOZE, RETAINED,
UNINIT, STARTING and WAKING hold. -/
def Obligations.RestLawKept : Prop := Kept RestLaw

/-- The replay buffer keeps its at most 32 consecutive numbers, its replay point and its timer at every step. -/
def Obligations.ReplayLawKept : Prop := Kept ReplayLaw

/-- The notice set keeps its form, its order of sending and the bound on the wait count at every step. -/
def Obligations.NoticeLawKept : Prop := Kept NoticeLaw

/-- Kept by every step, each by itself: the twelfth law (pools of at most 32), the order of the bypass counts, the window
lists of at most 4, one notice target and some manager, the form of the fault record, and the canonical form of the DRAM
contents. -/
def Obligations.BoundsKept : Prop :=
  Kept PoolLaw ∧ Kept BypassLaw ∧ Kept WindowLaw ∧ Kept StreamLaw ∧ Kept FaultLaw ∧ Kept DramLaw

/-! ## The host link -/

/-- HELLO, RESET_LINK, ACK, NAK, CREDIT and sequenced packets outside UP, and link control packets of a wrong length: a
HELLO in DOWN starts training, and everything else is discarded without effect. -/
def Obligations.LinkControlOutsideUp : Prop :=
  (∀ s : State, s.link.state = .down →
    exec (.hello []) s = .next { s with link := { s.link with state := .training, helloPending := true } }) ∧
  (∀ s : State, s.link.state = .training → exec (.hello []) s = .next s) ∧
  (∀ (s : State) (p : List Byte) (n : SeqNo) (k : Packet), s.link.state ≠ .up →
    exec (.resetLink p) s = .next s ∧ exec (.ack p) s = .next s ∧ exec (.nak p) s = .next s ∧
    exec (.credit p) s = .next s ∧ exec (.sequencedPacketArrival n k) s = .next s) ∧
  (∀ (s : State) (p : List Byte),
    (p.length ≠ 0 → exec (.hello p) s = .next s ∧ exec (.resetLink p) s = .next s) ∧
    (p.length ≠ 4 → exec (.ack p) s = .next s ∧ exec (.nak p) s = .next s ∧ exec (.credit p) s = .next s))

/-- A link reset, made by a HELLO or a RESET_LINK in UP: the Link Port's values, the Intake, the pools and the Return
Unit are reset. The rest stays: the stream table, the map but for its counts, the temperature record, the maintenance
settings, the fault record, the notice set (which MAP_DRAINED joins when the epoch before drains), and of each channel all
but its pool, its long command's answer, row_hold of the emptied banks and the discard flag of its write burst; then the
channel settles. The model's: which banks start row_hold (log entry 16), which burst is marked (log entry 25), and the
order inside the reset (log entry 26). -/
def Obligations.LinkResetClearsRequestSide : Prop :=
  ∀ (s : State) (i : Instr), s.link.state = .up → i = .hello [] ∨ i = .resetLink [] →
    ∃ t, exec i s = .next t ∧ t.now = s.now ∧ t.pending = s.pending ∧
      t.link = { linkAtReset with state := .training, helloPending := true, lastTx := s.link.lastTx,
                                  counters := { s.link.counters with linkResets := bump s.link.counters.linkResets } } ∧
      t.intake.queue = [] ∧ t.intake.tags = [] ∧
      (∀ j : StreamIx, t.stream j = { s.stream j with nextOrder := 0, flushes := [] }) ∧
      t.ret.queue = [] ∧ t.ret.noticeWait = 0 ∧ (∀ j : StreamIx, t.ret.nextToSend[j] = 0) ∧ SlotsReset s t ∧
      t.map = { s.map with current := t.map.current, previous := t.map.previous } ∧
      t.mgmt = { s.mgmt with notices := t.mgmt.notices } ∧
      (s.map.previous = 0 ∨ t.map.previous ≠ 0 → t.mgmt.notices = s.mgmt.notices) ∧
      (s.map.previous ≠ 0 → t.map.previous = 0 → t.mgmt.notices =
        (s.raiseNotice ⟨.mapDrained, none, BitVec.ofNat 32 (s.map.epoch - 1).toNat⟩).mgmt.notices) ∧
      ∀ c : Chan,
        (∀ b : BankIx, (t.chan c).bank b = bankEmptied ((s.chan c).bank b) s.now (s.chan c).settings.rowHold) ∧
        (t.chan c).writeBurst = (s.chan c).writeBurst.map (burstAtReset s.ret.queue c) ∧
        t.chan c = ((s.setChan c { s.chan c with
          pool := [], banks := (t.chan c).banks, writeBurst := (t.chan c).writeBurst
          longCmd := (s.chan c).longCmd.map fun r => { r with answerable := false } }).settle c).chan c

/-- ACK, NAK and CREDIT in UP, and a damaged packet: an ACK removes the packets up to its number; a NAK the older ones, and
calls for a replay from its number; one past the newest, a NAK removes all; any other changes nothing; a NAK of the oldest
number after four replays is a replay failure: fault and notice REPLAY_FAIL with that number, and a link reset; a CREDIT
adds up to 255; damage is counted, and in UP makes a NAK carrying expected when none is outstanding. -/
def Obligations.LinkControlInUp : Prop :=
  ((∀ (s : State) (n b1 b2 b3 : Byte) (p : SentPacket) (ps : List SentPacket),
    s.link.state = .up → s.link.replay = p :: ps → (n - p.seq).toNat < (p :: ps).length →
    ∃ t, exec (.ack [n, b1, b2, b3]) s = .next t ∧
      t.link.replay = (p :: ps).drop ((n - p.seq).toNat + 1) ∧
      (t.link.replay = [] → t.link.replayTimer = .stopped ∧ t.link.replayPoint = none) ∧
      (t.link.replay ≠ [] → t.link.replayTimer = .running s.now (s.now + 40000)) ∧
      (s.link.replayPoint = none → t.link.replayPoint = none) ∧
      (∀ m, s.link.replayPoint = some m → (∃ k ∈ t.link.replay, k.seq = m) → t.link.replayPoint = some m) ∧
      (∀ m k ks, s.link.replayPoint = some m → t.link.replay = k :: ks → (∀ j ∈ k :: ks, j.seq ≠ m) →
        t.link.replayPoint = some k.seq) ∧
      t = { s with link := { s.link with replay := t.link.replay, replayTimer := t.link.replayTimer,
                                         replayPoint := t.link.replayPoint, attempts := 0 } }) ∧
  (∀ (s : State) (n b1 b2 b3 : Byte), s.link.state = .up →
    s.link.replay = [] ∨ (∃ p ps, s.link.replay = p :: ps ∧ (p :: ps).length ≤ (n - p.seq).toNat) →
    exec (.ack [n, b1, b2, b3]) s = .next s) ∧
  (∀ (s : State) (n b1 b2 b3 : Byte), s.link.state = .up →
    exec (.credit [n, b1, b2, b3]) s =
      .next { s with link := { s.link with respCredits := min 255 (s.link.respCredits + n.toNat) } }) ∧
  (∀ s : State, exec .packetCrcFailure s = .next { s with link := { s.link with
    counters := { s.link.counters with crcErrors := bump s.link.counters.crcErrors }
    nakPending := if s.link.state = .up ∧ s.link.nakOutstanding = false then some s.link.expected else s.link.nakPending
    nakOutstanding := if s.link.state = .up then true else s.link.nakOutstanding } })) ∧
  ((∀ (s : State) (n b1 b2 b3 : Byte) (p : SentPacket) (ps : List SentPacket),
    s.link.state = .up → s.link.replay = p :: ps → (n - p.seq).toNat < (p :: ps).length →
    (n ≠ p.seq ∨ s.link.attempts < 4) →
    exec (.nak [n, b1, b2, b3]) s = .next { s with link := { s.link with
      replay := (p :: ps).drop (n - p.seq).toNat
      replayPoint := some n
      replayTimer := .running s.now (s.now + 40000)
      attempts := (if n = p.seq then s.link.attempts else 0) + 1
      counters := { s.link.counters with replays := bump s.link.counters.replays } } }) ∧
  (∀ (s : State) (n b1 b2 b3 : Byte) (p : SentPacket) (ps : List SentPacket),
    s.link.state = .up → s.link.replay = p :: ps → (p :: ps).length ≤ (n - p.seq).toNat →
    (n = s.link.nextSeq → exec (.nak [n, b1, b2, b3]) s = .next { s with link := { s.link with
      replay := [], replayPoint := none, replayTimer := .stopped, attempts := 0 } }) ∧
    (n ≠ s.link.nextSeq → exec (.nak [n, b1, b2, b3]) s = .next s)) ∧
  (∀ (s : State) (n b1 b2 b3 : Byte), s.link.state = .up → s.link.replay = [] →
    exec (.nak [n, b1, b2, b3]) s = .next s) ∧
  (∀ (s : State) (b1 b2 b3 : Byte) (p : SentPacket) (ps : List SentPacket),
    s.link.state = .up → s.link.replay = p :: ps → 4 ≤ s.link.attempts →
    ∃ t, exec (.nak [p.seq, b1, b2, b3]) s = .next t ∧
      exec (.resetLink []) (s.raiseBoth ⟨.replayFail, none, BitVec.ofNat 32 p.seq.toNat⟩) = .next t ∧
      t.link.state = .training ∧ t.link.helloPending = true ∧ t.link.replay = [] ∧ t.link.attempts = 0 ∧
      (s.mgmt.fault = none → t.mgmt.fault = some ⟨.replayFail, none, BitVec.ofNat 32 p.seq.toNat, 1⟩)))

/-- A sequenced packet in UP. With the expected number it is acknowledged and uses a request credit, and the Intake takes
it, or refuses it as an overrun, or refuses it as a tag reuse and returns its credit. Behind expected it is a duplicate
and the last ACK goes again; ahead of expected it makes a NAK when none is outstanding; neither reaches the Intake. -/
def Obligations.SequencedPacketArrives : Prop :=
  (∀ (s : State) (p : Packet), s.link.state = .up → Packet.linkControlKind p.kind = false →
    (s.intake.queue.length < 64 → (p.stream, p.tag) ∉ s.intake.tags →
      exec (.sequencedPacketArrival s.link.expected p) s = .next { s with
        link := accepted s.link s.link.expected
        intake := { queue := s.intake.queue ++ [⟨p, (s.stream p.stream).nextOrder⟩]
                    tags := s.intake.tags ++ [(p.stream, p.tag)]
                    streams := s.intake.streams.set p.stream
                      { s.stream p.stream with nextOrder := (s.stream p.stream).nextOrder + 1 } } }) ∧
    (s.intake.queue.length < 64 → (p.stream, p.tag) ∈ s.intake.tags →
      exec (.sequencedPacketArrival s.link.expected p) s = .next (State.raiseBoth
        { s with link := { accepted s.link s.link.expected with owed := (accepted s.link s.link.expected).owed + 1 } }
        ⟨.tagReuse, none, BitVec.ofNat 32 (p.stream.val * 64 + p.tag.val)⟩)) ∧
    (64 ≤ s.intake.queue.length →
      exec (.sequencedPacketArrival s.link.expected p) s = .next (State.raiseBoth
        { s with link := accepted s.link s.link.expected }
        ⟨.overrun, none, BitVec.ofNat 32 (p.stream.val * 64 + p.tag.val)⟩))) ∧
  (∀ (s : State) (n : SeqNo) (p : Packet), s.link.state = .up → Packet.linkControlKind p.kind = false →
    (1 ≤ (s.link.expected - n).toNat → (s.link.expected - n).toNat ≤ 128 →
      exec (.sequencedPacketArrival n p) s = .next { s with link := { s.link with
        ackPending := some (s.link.expected - 1)
        counters := { s.link.counters with duplicates := bump s.link.counters.duplicates } } }) ∧
    (1 ≤ (n - s.link.expected).toNat → (n - s.link.expected).toNat ≤ 127 →
      exec (.sequencedPacketArrival n p) s = .next { s with link := { s.link with
        nakPending := if s.link.nakOutstanding then s.link.nakPending else some s.link.expected
        nakOutstanding := true
        counters := { s.link.counters with outOfSequence := bump s.link.counters.outOfSequence } } }))

/-- HELLO_SEND, NAK_SEND, ACK_SEND, CREDIT_SEND and RETRANSMISSION: what each puts on the link, in the order of the
transmit port, and that nothing but the Link Port changes. -/
def Obligations.LinkControlSends : Prop :=
  (∀ s : State, s.link.helloPending = true →
    exec .helloSend s = .next { s with link := { s.link with
      state := .up, helloPending := false, owed := 64 - s.intake.queue.length, lastTx := some .hello } }) ∧
  (∀ (s : State) (n : SeqNo), s.link.state = .up → s.link.helloPending = false → s.link.nakPending = some n →
    exec .nakSend s = .next { s with link := { s.link with
      nakPending := none, lastTx := some (.nak n)
      counters := { s.link.counters with naksSent := bump s.link.counters.naksSent } } }) ∧
  (∀ (s : State) (n : SeqNo), s.link.state = .up → s.link.helloPending = false → s.link.nakPending = none →
    s.link.ackPending = some n →
    exec .ackSend s = .next { s with link := { s.link with ackPending := none, lastTx := some (.ack n) } }) ∧
  (∀ s : State, s.link.state = .up → s.link.helloPending = false → s.link.nakPending = none →
    s.link.ackPending = none → 1 ≤ s.link.owed →
    exec .creditSend s = .next { s with link := { s.link with
      granted := s.link.granted + s.link.owed, owed := 0, lastTx := some (.credit s.link.owed) } }) ∧
  (∀ (s : State) (n : SeqNo) (older newer : List SentPacket) (p : SentPacket), PortClear s.link →
    s.link.replayPoint = some n → s.link.replay = older ++ p :: newer → p.seq = n → (∀ q ∈ older, q.seq ≠ n) →
    (∀ q, (older ++ [p]).head? = some q → (n - q.seq).toNat = older.length) →
    exec .retransmission s = .next { s with link := { s.link with
      lastTx := some (.sequenced p), replayPoint := if newer = [] then none else some (n + 1) } })

/-- RESPONSE_SEND sends the oldest sendable response when no notice has its turn, with all that a send releases: a request
it carries retires (SharedEndings), which with the last of the epoch before raises MAP_DRAINED, and any other send leaves
the notice set. The wait count rises by the notices pending before the send (the model's order, log entry 28). NOTICE_SEND
sends the first pending notice when eight responses went ahead of it or no response is sendable. And what a sent response
carries: its packet, and that packet's kind code, stream, tag and payload (R146, R151; file 11, section 11.3), as a notice's
are given; and the bytes on the link, header, payload and four bytes of CRC (file 11, section 11.1; the CRC's value is not
stated here). -/
def Obligations.ResponseAndNoticeSends : Prop :=
  (∀ (s : State) (older newer : List Response) (r : Response), PortTakes s.link →
    s.ret.queue = older ++ r :: newer → s.sendable r = true → (∀ q ∈ older, s.sendable q = false) →
    (s.mgmt.notices = [] ∨ s.ret.noticeWait ≠ 8) →
    ∃ t, exec .responseSend s = .next t ∧
      t.ret.queue = older ++ newer ∧
      t.link = { s.link with
        nextSeq := s.link.nextSeq + 1, respCredits := s.link.respCredits - 1
        replay := s.link.replay ++ [⟨s.link.nextSeq, s.packetOf r⟩]
        replayTimer := if s.link.replay = [] then .running s.now (s.now + 40000) else s.link.replayTimer
        lastTx := some (.sequenced ⟨s.link.nextSeq, s.packetOf r⟩) } ∧
      t.intake = { s.intake with tags := s.intake.tags.erase (r.stream, r.tag) } ∧
      (∀ j : StreamIx, t.ret.nextToSend[j] =
        if j ≠ r.stream then s.ret.nextToSend[j]
        else if r.ofFunctionReset = true then 0
        else if (s.stream j).orderMode = .strict then s.ret.nextToSend[j] + 1 else s.ret.nextToSend[j]) ∧
      (s.mgmt.notices ≠ [] → t.ret.noticeWait = s.ret.noticeWait + 1) ∧
      (∀ j : SlotIx, t.ret.slots[j] =
        if ∃ e, r.body = .readData e j then .free else s.ret.slots[j]) ∧
      (∀ e, ((∃ c, r.body = .writeDone e c) ∨ ∃ j, r.body = .readData e j) →
        (e = s.map.epoch → t.map = { s.map with current := s.map.current - 1 }) ∧
        (e ≠ s.map.epoch → t.map = { s.map with previous := s.map.previous - 1 }) ∧
        t.mgmt = (s.retire e).mgmt ∧ (s.mgmt.notices = [] → t.ret.noticeWait = (s.retire e).ret.noticeWait) ∧
        (e ≠ s.map.epoch → s.map.previous = 1 → s.mgmt.notices = [] → s.mgmt.settings.noticeEnable.testBit 3 = true →
          t.mgmt.notices = [⟨.mapDrained, none, BitVec.ofNat 32 (s.map.epoch - 1).toNat⟩] ∧ t.ret.noticeWait = 0)) ∧
      ((∀ e c, r.body ≠ .writeDone e c) → (∀ e j, r.body ≠ .readData e j) → t.map = s.map ∧ t.mgmt = s.mgmt ∧
        (s.mgmt.notices = [] → t.ret.noticeWait = s.ret.noticeWait)) ∧
      t.chans = s.chans ∧ t.now = s.now ∧ t.pending = s.pending ∧ t.mgmt.settings = s.mgmt.settings ∧ t.mgmt.fault = s.mgmt.fault) ∧
  (∀ (s : State) (n : Notice) (ns : List Notice) (i : StreamIx), PortTakes s.link →
    s.mgmt.notices = n :: ns → (s.ret.noticeWait = 8 ∨ ∀ q ∈ s.ret.queue, s.sendable q = false) →
    (∀ j : StreamIx, (s.stream j).noticeTarget = true ↔ j = i) →
    exec .noticeSend s = .next { s with
      mgmt := { s.mgmt with notices := ns }
      ret := { s.ret with noticeWait := 0 }
      link := { s.link with
        nextSeq := s.link.nextSeq + 1, respCredits := s.link.respCredits - 1
        replay := s.link.replay ++ [⟨s.link.nextSeq, .notice i n.kind n.chan n.detail⟩]
        replayTimer := if s.link.replay = [] then .running s.now (s.now + 40000) else s.link.replayTimer
        lastTx := some (.sequenced ⟨s.link.nextSeq, .notice i n.kind n.chan n.detail⟩) } }) ∧
  (∀ (s : State) (r : Response),
    (∀ e j rec d m, r.body = .readData e j → s.ret.slots[j] = .filled rec d m →
      s.packetOf r = .readData r.stream r.tag d m ∧
      ∃ b, (s.packetOf r).parts = (0x11, r.stream, r.tag, b) ∧ b.length = 68 ∧
        (∀ w : WordIx, FieldAt b (8 * w) 8 d[w]) ∧ b.getD 64 0 = m ∧ ZeroBytes b 65 67) ∧
    (∀ e c, r.body = .writeDone e c → s.packetOf r = .writeDone r.stream r.tag ∧
      (s.packetOf r).parts = (0x12, r.stream, r.tag, [])) ∧
    (r.body = .flushDone → s.packetOf r = .flushDone r.stream r.tag ∧
      (s.packetOf r).parts = (0x13, r.stream, r.tag, [])) ∧
    (∀ k v, r.body = .mgmtResp k v → s.packetOf r = .mgmtResp r.stream r.tag k v ∧
      ∃ b, (s.packetOf r).parts = (0x14, r.stream, r.tag, b) ∧ b.length = 8 ∧ b.getD 0 0 = mgmtCodeNumber k ∧
        b.getD 1 0 = (if v.isSome then 1 else 0) ∧ ZeroBytes b 2 3 ∧ FieldAt b 4 4 (v.getD 0)) ∧
    (∀ k, r.body = .errorResp k → s.packetOf r = .errorResp r.stream r.tag k ∧
      ∃ b, (s.packetOf r).parts = (0x15, r.stream, r.tag, b) ∧ b.length = 4 ∧ b.getD 0 0 = errorCodeNumber k ∧
        ZeroBytes b 1 3)) ∧
  (∀ (i : StreamIx) (n : NoticeKind) (ch : Option Chan) (d : Word32),
    ∃ b, (OutPacket.notice i n ch d).parts = (0x16, i, 0, b) ∧ b.length = 8 ∧ (b.getD 0 0).toNat = n.number ∧
      (∀ c, ch = some c → (b.getD 1 0).toNat = c.val) ∧ (ch = none → b.getD 1 0 = 0xFF) ∧ ZeroBytes b 2 3 ∧
      FieldAt b 4 4 d) ∧
  (∀ (p : SentPacket) (kind : Byte) (i : StreamIx) (tag : TagIx) (b : List Byte), p.body.parts = (kind, i, tag, b) →
    ∃ h crc, (TxPacket.sequenced p).bytes = h ++ b ++ crc ∧ h.length = 4 ∧ crc.length = 4 ∧ h.getD 0 0 = kind ∧
      (h.getD 1 0).toNat = i.val * 64 + tag.val ∧ h.getD 2 0 = p.seq ∧ (h.getD 3 0).toNat = b.length)

/-- A response is sendable on a RELAXED stream always, on a STRICT stream exactly when its order number is next to send;
so a STRICT stream's responses leave in order-number order (the eleventh law). -/
def Obligations.StrictStreamsSendInOrder : Prop :=
  (∀ (s : State) (r : Response), s.sendable r = true ↔
    (s.stream r.stream).orderMode = .relaxed ∨ r.order = s.ret.nextToSend[r.stream]) ∧
  (∀ (s t : State), exec .responseSend s = .next t → t.ret.queue ≠ s.ret.queue →
    ∃ r ∈ s.ret.queue, t.ret.queue = s.ret.queue.erase r ∧
      ((s.stream r.stream).orderMode = .strict → r.order = s.ret.nextToSend[r.stream]))

/-- REPLAY_TIMER_EXPIRY: a replay from the oldest packet while fewer than four were made since progress; after the fourth
a replay failure: fault and notice REPLAY_FAIL with the oldest number, and a link reset, the one that RESET_LINK makes in UP
(LinkResetClearsRequestSide). -/
def Obligations.ReplayTimerExpires : Prop :=
  ∀ (s : State) (st e : Nat) (p : SentPacket) (ps : List SentPacket),
    s.link.replayTimer = .running st e → e ≤ s.now → s.link.replay = p :: ps →
    (s.link.attempts < 4 →
      exec .replayTimerExpiry s = .next { s with link := { s.link with
        replayPoint := some p.seq, attempts := s.link.attempts + 1, replayTimer := .running s.now (s.now + 40000)
        counters := { s.link.counters with replays := bump s.link.counters.replays } } }) ∧
    (4 ≤ s.link.attempts →
      ∃ t u, u = s.raiseBoth ⟨.replayFail, none, BitVec.ofNat 32 p.seq.toNat⟩ ∧ exec .replayTimerExpiry s = .next t ∧
        (s.link.state = .up → exec (.resetLink []) u = .next t) ∧
        exec (.resetLink []) { u with link := { u.link with state := .up } } = .next t ∧
        t.mgmt.fault = u.mgmt.fault ∧ t.link.state = .training ∧ t.link.helloPending = true ∧
        t.link.replay = [] ∧ t.link.attempts = 0 ∧ t.intake.queue = [] ∧ t.intake.tags = [] ∧ t.ret.queue = [] ∧
        (s.mgmt.fault = none → t.mgmt.fault = some ⟨.replayFail, none, BitVec.ofNat 32 p.seq.toNat, 1⟩) ∧
        (s.mgmt.settings.noticeEnable = 255 → s.mgmt.notices = [] →
          ⟨.replayFail, none, BitVec.ofNat 32 p.seq.toNat⟩ ∈ t.mgmt.notices))

/-! ## The head of the ingress queue, and the address map -/

/-- What is answered at the taking without being carried out: a malformed packet (MALFORMED), a management packet of a
stream that is no manager (DENIED), an unknown command code (BAD_INDEX); and a channel command on no channel (BAD_INDEX),
during a long command (BUSY), or in a state that does not accept it (BAD_STATE). Nothing else changes. Which packets are
malformed, and what a packet that is not asks for. (An unknown command code of a stream that is no manager: log entry 12.) -/
def Obligations.RefusedAtTheTaking : Prop :=
  (∀ (p : Packet) (b : List Byte), b = p.payload →
    (requestOf p = .malformed ↔ Malformed p) ∧
    (¬Malformed p →
      (p.kind = 0x01 → ∃ a, requestOf p = .read a ∧ FieldAt b 0 5 a) ∧
      (p.kind = 0x02 → ∃ a d, requestOf p = .write a (b.getD 5 0) d ∧ FieldAt b 0 5 a ∧
        ∀ w : WordIx, FieldAt b (8 + 8 * w) 8 d[w]) ∧
      (p.kind = 0x03 → requestOf p = .flush) ∧
      (p.kind = 0x04 → requestOf p =
        .mgmtRead ⟨(b.getD 0 0).toNat, (b.getD 1 0).toNat, (b.getD 2 0).toNat⟩) ∧
      (p.kind = 0x05 → ∃ v, requestOf p =
        .mgmtWrite ⟨(b.getD 0 0).toNat, (b.getD 1 0).toNat, (b.getD 2 0).toNat⟩ v ∧ FieldAt b 4 4 v) ∧
      (p.kind = 0x06 →
        ((b.getD 2 0).getLsbD 0 = false →
          requestOf p = .mgmtCommand (b.getD 0 0).toNat (b.getD 1 0).toNat none) ∧
        ((b.getD 2 0).getLsbD 0 = true →
          ∃ v, requestOf p = .mgmtCommand (b.getD 0 0).toNat (b.getD 1 0).toNat (some v) ∧ FieldAt b 4 4 v)))) ∧
  ((∀ (s : State) (q : QueuedPacket) (rest : List QueuedPacket), HeadIs s q rest .malformed →
    exec .unknownKind s = .next (answered s q rest (.errorResp .malformed))) ∧
  (∀ (s : State) (q : QueuedPacket) (rest : List QueuedPacket) (r : Request), HeadIs s q rest r →
    (∃ a, r = .mgmtRead a) ∨ (∃ a v, r = .mgmtWrite a v) ∨ (∃ n c v, r = .mgmtCommand n c v) →
    (s.stream q.packet.stream).manager = false →
    exec (headRow r) s = .next (answered s q rest (.errorResp .denied))) ∧
  (∀ (s : State) (q : QueuedPacket) (rest : List QueuedPacket) (n c : Nat) (v : Option Word32),
    ManagerHead s q rest (.mgmtCommand n c v) → n ∉ [1, 2, 3, 4, 5, 6, 16, 17, 18, 19, 20] →
    exec .unknownCommandCode s = .next (answered s q rest (.mgmtResp .badIndex none)))) ∧
  (∀ (s : State) (q : QueuedPacket) (rest : List QueuedPacket) (n ch : Nat) (v : Option Word32),
    ManagerHead s q rest (.mgmtCommand n ch v) → 1 ≤ n → n ≤ 6 →
    (ch ≠ 0 → ch ≠ 1 → exec (commandRow n) s = .next (answered s q rest (.mgmtResp .badIndex none))) ∧
    ∀ c : Chan, ch = c.val →
      ((s.chan c).longCmd ≠ none → exec (commandRow n) s = .next (answered s q rest (.mgmtResp .busy none))) ∧
      ((s.chan c).longCmd = none →
        (n = 1 ∧ (s.chan c).state ∉ [ChanState.uninit, .held]) ∨
        (n = 2 ∧ (s.chan c).state ∉ [ChanState.active, .doze]) ∨
        (n = 3 ∧ (s.chan c).state ≠ .held) ∨
        (n = 4 ∧ (s.chan c).state ∉ [ChanState.active, .doze]) ∨
        (n = 5 ∧ (s.chan c).state ∉ [ChanState.retained, .active, .doze]) ∨
        (n = 6 ∧ (s.chan c).state ∉ [ChanState.active, .doze, .held]) →
        exec (commandRow n) s = .next (answered s q rest (.mgmtResp .badState none))))

/-- Translation (file 02, section 2.2). A region holds an address exactly when it is valid and the address lies from base to
limit; a request's line index is taken from the region's base, and its location from the live layout the region names and
its row_base. Line `i` of a region lies in the channel, bank, row and column line as computed there; two different lines of
a region never share a location, and the lines of a granule lie in consecutive columns of one row of one bank. -/
def Obligations.TranslationComputed : Prop :=
  (∀ (k rowBase i : Nat),
    (∀ m, m = ChannelMode.ch0 ∨ m = ChannelMode.ch1 →
      (Layout.mk m k).locate rowBase i =
        ⟨if m = .ch0 then 0 else 1, ⟨i / 2 ^ k % 8, Nat.mod_lt _ (by decide)⟩,
          rowBase + (i / 2 ^ k / 8 * 2 ^ k + i % 2 ^ k) / 128, (i / 2 ^ k / 8 * 2 ^ k + i % 2 ^ k) % 128⟩) ∧
    (Layout.mk .split k).locate rowBase i =
        ⟨if i / 2 ^ k % 2 = 0 then 0 else 1, ⟨i / 2 ^ k / 2 % 8, Nat.mod_lt _ (by decide)⟩,
          rowBase + (i / 2 ^ k / 2 / 8 * 2 ^ k + i % 2 ^ k) / 128, (i / 2 ^ k / 2 / 8 * 2 ^ k + i % 2 ^ k) % 128⟩) ∧
  (∀ (l : Layout) (rowBase i j : Nat), l.locate rowBase i = l.locate rowBase j → i = j) ∧
  (∀ (l : Layout) (rowBase i : Nat), l.granuleK ≤ 6 → i % 2 ^ l.granuleK + 1 < 2 ^ l.granuleK →
    l.locate rowBase (i + 1) = { l.locate rowBase i with col := (l.locate rowBase i).col + 1 }) ∧
  (∀ (r : Region) (a : HostAddr), r.holds a = true ↔
    r.valid = true ∧ r.base.toNat ≤ a.toNat ∧ a.toNat ≤ r.limit.toNat) ∧
  (∀ (m : MapUnit) (r : Region) (a : HostAddr) (n : Fin 4), r.layout = n.val →
    m.locate r a = m.liveLayouts[n].locate r.rowBase ((a.toNat - r.base.toNat) / 64))

/-- A region's footprint (R34): on a channel where its layout gives it chunks, the rows from row_base to the last row used
as computed there, and none elsewhere; two footprints alias exactly when they share a row; the valid regions of a table are
its valid entries. And the footprint covers the region: every line of a region that passes BAD_LAYOUT lies, on the channel
that its layout gives it, in a row of the region's footprint on that channel. -/
def Obligations.FootprintCoversRegion : Prop :=
  (∀ (ls : Vector Layout 4) (r : Region) (i : Nat), (layoutAt ls r.layout).granuleK ≤ 6 → r.badLayout = false →
    i < (r.limit.toNat + 1 - r.base.toNat) / 64 →
    ∃ lo hi, footprint ls r ((layoutAt ls r.layout).locate r.rowBase i).chan = some (lo, hi) ∧
      lo ≤ ((layoutAt ls r.layout).locate r.rowBase i).row ∧ ((layoutAt ls r.layout).locate r.rowBase i).row ≤ hi) ∧
  (∀ (ls : Vector Layout 4) (r : Region) (n : Fin 4) (g total : Nat), r.layout = n.val → g = 2 ^ ls[n].granuleK →
    total = (r.limit.toNat + 1 - r.base.toNat) / 64 / g →
    ∀ (c : Chan) (chunks : Nat), chunks = (match ls[n].mode with
        | .split => if c = 0 then (total + 1) / 2 else total / 2
        | .ch0 => if c = 0 then total else 0
        | .ch1 => if c = 1 then total else 0) →
      (chunks = 0 → footprint ls r c = none) ∧
      (chunks ≠ 0 → footprint ls r c =
        some (r.rowBase, r.rowBase + ((chunks - 1) / 8 * g + g - 1) / 128))) ∧
  (∀ (ls : Vector Layout 4) (r q : Region) (c : Chan), aliasesOn ls r q c = true ↔
    ∃ row lo hi lo' hi', footprint ls r c = some (lo, hi) ∧ footprint ls q c = some (lo', hi') ∧
      lo ≤ row ∧ row ≤ hi ∧ lo' ≤ row ∧ row ≤ hi') ∧
  ∀ (t : Vector Region 16), validRegions t = t.toList.filter (·.valid)

/-- A READ or WRITE that fails a check is taken at once and answered with the code of the first check that fails:
MALFORMED, UNMAPPED, DENIED, READ_ONLY (a WRITE), NOT_READY or CHANNEL_HELD. -/
def Obligations.RequestsRefusedInOrder : Prop :=
  ∀ (s : State) (q : QueuedPacket) (rest : List QueuedPacket) (a : HostAddr) (i : Fin 16),
    (HeadIs s q rest (.read a) →
      (a.toNat % 64 ≠ 0 → exec .read s = .next (answered s q rest (.errorResp .malformed))) ∧
      (a.toNat % 64 = 0 → (∀ j : Fin 16, s.map.liveRegions[j].holds a = false) →
        exec .read s = .next (answered s q rest (.errorResp .unmapped))) ∧
      (a.toNat % 64 = 0 → LiveRegion s a i →
        (s.map.liveRegions[i].streams.getLsbD q.packet.stream = false →
          exec .read s = .next (answered s q rest (.errorResp .denied))) ∧
        (s.map.liveRegions[i].streams.getLsbD q.packet.stream = true →
          ((s.chan (s.map.locate s.map.liveRegions[i] a).chan).state ∈ [ChanState.uninit, .starting] →
            exec .read s = .next (answered s q rest (.errorResp .notReady))) ∧
          ((s.chan (s.map.locate s.map.liveRegions[i] a).chan).state ∈ [ChanState.holding, .held] →
            exec .read s = .next (answered s q rest (.errorResp .channelHeld)))))) ∧
    ∀ (en : BitVec 8) (d : Line), HeadIs s q rest (.write a en d) →
      (a.toNat % 64 ≠ 0 ∨ en = 0 → exec .write s = .next (answered s q rest (.errorResp .malformed))) ∧
      (a.toNat % 64 = 0 → en ≠ 0 → (∀ j : Fin 16, s.map.liveRegions[j].holds a = false) →
        exec .write s = .next (answered s q rest (.errorResp .unmapped))) ∧
      (a.toNat % 64 = 0 → en ≠ 0 → LiveRegion s a i →
        (s.map.liveRegions[i].streams.getLsbD q.packet.stream = false →
          exec .write s = .next (answered s q rest (.errorResp .denied))) ∧
        (s.map.liveRegions[i].streams.getLsbD q.packet.stream = true →
          (s.map.liveRegions[i].writable = false →
            exec .write s = .next (answered s q rest (.errorResp .readOnly))) ∧
          (s.map.liveRegions[i].writable = true →
            ((s.chan (s.map.locate s.map.liveRegions[i] a).chan).state ∈ [ChanState.uninit, .starting] →
              exec .write s = .next (answered s q rest (.errorResp .notReady))) ∧
            ((s.chan (s.map.locate s.map.liveRegions[i] a).chan).state ∈ [ChanState.holding, .held] →
              exec .write s = .next (answered s q rest (.errorResp .channelHeld))))))

/-- A READ that passes the checks takes the lowest FREE completion slot and an entry of the target channel's pool, a
WRITE an entry; where one is missing the request stays at the head and nothing changes. -/
def Obligations.RequestsAcceptedOrWait : Prop :=
  ∀ (s : State) (q : QueuedPacket) (rest : List QueuedPacket) (a : HostAddr) (i : Fin 16) (loc : Location),
    a.toNat % 64 = 0 → LiveRegion s a i → s.map.liveRegions[i].streams.getLsbD q.packet.stream = true →
    loc = s.map.locate s.map.liveRegions[i] a → Accepts (s.chan loc.chan).state →
    (HeadIs s q rest (.read a) →
      (∀ k : SlotIx, s.ret.slots[k] = .free → (∀ j : SlotIx, j < k → s.ret.slots[j] ≠ .free) →
        (s.chan loc.chan).pool.length < 32 →
        exec .read s = .next (((taken s rest).setSlot k (.reserved
            ⟨q.packet.stream, q.packet.tag, q.order, s.map.epoch, loc.chan, loc.bank, loc.row⟩)).placeEntry loc.chan
          ⟨q.packet.stream, q.packet.tag, q.order, s.map.epoch, .read k, loc.bank, loc.row, loc.col, 0, false⟩)) ∧
      ((∀ j : SlotIx, s.ret.slots[j] ≠ .free) ∨ 32 ≤ (s.chan loc.chan).pool.length → exec .read s = .next s)) ∧
    ∀ (en : BitVec 8) (d : Line), HeadIs s q rest (.write a en d) → en ≠ 0 → s.map.liveRegions[i].writable = true →
      ((s.chan loc.chan).pool.length < 32 →
        exec .write s = .next ((taken s rest).placeEntry loc.chan
          ⟨q.packet.stream, q.packet.tag, q.order, s.map.epoch, .write d en, loc.bank, loc.row, loc.col, 0, false⟩)) ∧
      (32 ≤ (s.chan loc.chan).pool.length → exec .write s = .next s)

/-- The placement of an entry: it joins the tail of the pool, the bank's row_hold stops and hold_expired clears, the
idle timer stops, the epoch's count rises; the channel leaves DOZE, cancels its retention, or wakes. Whatever else the
channel holds, its account, trim state, settings, counters and DRAM contents among it, continues as it stood (R131), and
the other channel stays as it is. -/
def Obligations.PlacementActsByState : Prop :=
  ∀ (s : State) (c d : Chan) (e : PoolEntry) (x y : Channel), c ≠ d → x = s.chan c →
    y = { x with
      pool := x.pool ++ [e], idleTimer := .stopped
      banks := x.banks.set e.bank { x.bank e.bank with rowHold := .stopped, holdExpired := false } } →
    (s.placeEntry c e).map = { s.map with current := s.map.current + 1 } ∧
    (s.placeEntry c e).chan d = s.chan d ∧ (s.placeEntry c e).intake = s.intake ∧
    (s.placeEntry c e).link = s.link ∧ (s.placeEntry c e).mgmt = s.mgmt ∧
    (s.placeEntry c e).now = s.now ∧ (s.placeEntry c e).pending = s.pending ∧
    ((s.placeEntry c e).chan c).pool = (s.chan c).pool ++ [e] ∧
    (((s.placeEntry c e).chan c).bank e.bank = { (s.chan c).bank e.bank with rowHold := .stopped, holdExpired := false }) ∧
    (∀ b, b ≠ e.bank → ((s.placeEntry c e).chan c).bank b = (s.chan c).bank b) ∧
    (x.state = .doze → (s.placeEntry c e).ret = s.ret ∧
      (s.placeEntry c e).chan c = { y with
        state := .active, dozeExit := .running s.now (s.now + x.settings.dozeExit), lastCommand := some .dozeExit }) ∧
    (x.state = .retainPending →
      (s.placeEntry c e).chan c = { y with state := .active, longCmd := none } ∧
      (∀ r, x.longCmd = some r → r.answerable = true → (s.placeEntry c e).ret =
        { s.ret with queue := s.ret.queue ++ [⟨r.stream, r.tag, r.order, .mgmtResp .cancelled none, false⟩] }) ∧
      ((∀ r, x.longCmd = some r → r.answerable = false) → (s.placeEntry c e).ret = s.ret)) ∧
    (x.state = .retained → (s.placeEntry c e).ret = s.ret ∧
      (s.placeEntry c e).chan c = { y with
        state := .waking, seqStep := .shortExit, lastCommand := some .retentionExit
        retainExitShort := .running s.now (s.now + x.settings.retainExitShort)
        retainExitLong := .running s.now (s.now + x.settings.retainExitLong) }) ∧
    (x.state ∉ [ChanState.doze, .retainPending, .retained] →
      (s.placeEntry c e).chan c = y ∧ (s.placeEntry c e).ret = s.ret)

/-- A FLUSH counts the stream's WRITEs that wait in the pools: with none it is answered at once; with some it joins the
flush list, and with four records there already it is refused FLUSH_LIMIT. That the WRITEs of the two pools are all that
wait is the model's deduction (log entry 18). -/
def Obligations.FlushCountsWaitingWrites : Prop :=
  ∀ (s : State) (q : QueuedPacket) (rest : List QueuedPacket) (n : Nat), HeadIs s q rest .flush →
    n = ((s.chan 0).pool ++ (s.chan 1).pool).countP (fun e => e.isWrite && e.stream == q.packet.stream) →
    (n = 0 → exec .flush s = .next (answered s q rest .flushDone)) ∧
    (0 < n → (s.stream q.packet.stream).flushes.length < 4 →
      exec .flush s = .next (taken (withStream s q.packet.stream { s.stream q.packet.stream with
        flushes := (s.stream q.packet.stream).flushes ++ [⟨q.packet.tag, q.order, n⟩] }) rest)) ∧
    (0 < n → 4 ≤ (s.stream q.packet.stream).flushes.length →
      exec .flush s = .next (answered s q rest (.errorResp .flushLimit)))

/-! ## Management -/

/-- A MGMT_READ of a manager stream is answered OK with the field as it stands at the taking (the packet gone from the
queue, its credit owed), or BAD_INDEX with no value where the address names nothing; nothing else changes. What each field
of each table reads is written out in entryFields (trim_remaining at the instant of the expiry: log entry 14). -/
def Obligations.ManagementReads : Prop :=
  ∀ (s : State) (q : QueuedPacket) (rest : List QueuedPacket) (a : MgmtAddr), ManagerHead s q rest (.mgmtRead a) →
    (∀ v, (entryFields (taken s rest) a.table a.entry)[a.field]? = some v →
      exec .mgmtRead s = .next (answered s q rest (.mgmtResp .ok (some v)))) ∧
    ((entryFields (taken s rest) a.table a.entry).length ≤ a.field →
      exec .mgmtRead s = .next (answered s q rest (.mgmtResp .badIndex none))) ∧
    (∀ v, (taken s rest).readField a = some v →
      exec .mgmtRead s = .next (answered s q rest (.mgmtResp .ok (some (BitVec.ofNat 32 v))))) ∧
    ((taken s rest).readField a = none → exec .mgmtRead s = .next (answered s q rest (.mgmtResp .badIndex none))) ∧
    (14 ≤ a.table → exec .mgmtRead s = .next (answered s q rest (.mgmtResp .badIndex none)))

/-- The IDENT table (R153): one entry, 0, with its ten values in every state, none of them writable, and BAD_INDEX beyond
them. -/
def Obligations.IdentReads : Prop :=
  ∀ (s : State) (q : QueuedPacket) (rest : List QueuedPacket) (e k : Nat),
    (ManagerHead s q rest (.mgmtRead ⟨0, e, k⟩) →
      (∀ v, e = 0 → [0x2408, 1, 2, 4, 64, 48, 32, 16, 4, 32][k]? = some v →
        exec .mgmtRead s = .next (answered s q rest (.mgmtResp .ok (some (BitVec.ofNat 32 v))))) ∧
      (e ≠ 0 ∨ 9 < k → exec .mgmtRead s = .next (answered s q rest (.mgmtResp .badIndex none)))) ∧
    (∀ v, ManagerHead s q rest (.mgmtWrite ⟨0, e, k⟩ v) → e = 0 → k ≤ 9 →
      exec .mgmtWrite s = .next (answered s q rest (.mgmtResp .readOnlyField none)))

/-- The FAULT table (R166): one entry, 0; recorded, kind, channel, detail and count as they stand at the taking, all 0
while nothing is recorded; read-only; the kinds of the four faults, and the count, in states the fault record's law
allows. -/
def Obligations.FaultTableReads : Prop :=
  ∀ (s : State) (q : QueuedPacket) (rest : List QueuedPacket) (e k : Nat),
    (ManagerHead s q rest (.mgmtRead ⟨11, e, k⟩) →
      (s.mgmt.fault = none → e = 0 → k ≤ 4 →
        exec .mgmtRead s = .next (answered s q rest (.mgmtResp .ok (some 0)))) ∧
      (∀ f v, s.mgmt.fault = some f → e = 0 →
        [1, BitVec.ofNat 32 f.kind.number,
          (match f.chan with | some c => BitVec.ofNat 32 c.val | none => 2), f.detail, BitVec.ofNat 32 f.count][k]?
            = some v →
        exec .mgmtRead s = .next (answered s q rest (.mgmtResp .ok (some v)))) ∧
      (e ≠ 0 ∨ 4 < k → exec .mgmtRead s = .next (answered s q rest (.mgmtResp .badIndex none)))) ∧
    (∀ v, ManagerHead s q rest (.mgmtWrite ⟨11, e, k⟩ v) → e = 0 → k ≤ 4 →
      exec .mgmtWrite s = .next (answered s q rest (.mgmtResp .readOnlyField none))) ∧
    (∀ f, FaultLaw s → s.mgmt.fault = some f → f.kind.number ∈ [2, 4, 5, 7] ∧ f.count ≤ 255)

/-- ORDER_MODE_WRITE, MANAGER_WRITE and NOTICE_TARGET_WRITE: the field stored, next to send set when a stream becomes
STRICT, the notice target moved; BUSY while other tags are outstanding, BAD_VALUE for a value that is neither 0 nor 1 or
that would leave no manager or no notice target; BAD_INDEX for an entry above 3. -/
def Obligations.StreamTableWrites : Prop :=
  ∀ (s : State) (q : QueuedPacket) (rest : List QueuedPacket) (i : StreamIx) (v : Word32),
    (ManagerHead s q rest (.mgmtWrite ⟨1, i.val, 0⟩ v) →
      (1 < v.toNat → exec .orderModeWrite s = .next (answered s q rest (.mgmtResp .badValue none))) ∧
      (v.toNat ≤ 1 → (s.stream i).orderMode ≠ orderModeOf v →
        (∃ t ∈ s.intake.tags, t.1 = i ∧ t ≠ (q.packet.stream, q.packet.tag)) →
        exec .orderModeWrite s = .next (answered s q rest (.mgmtResp .busy none))) ∧
      (v.toNat ≤ 1 → (s.stream i).orderMode = orderModeOf v →
        exec .orderModeWrite s = .next (answered s q rest (.mgmtResp .ok none))) ∧
      ((∀ t ∈ s.intake.tags, t.1 = i → t = (q.packet.stream, q.packet.tag)) → (s.stream i).orderMode ≠ orderModeOf v →
        (v = 0 → exec .orderModeWrite s = .next (answered
          (withStream s i { s.stream i with orderMode := .relaxed }) q rest (.mgmtResp .ok none))) ∧
        (v = 1 → exec .orderModeWrite s = .next (answered
          (withNext (withStream s i { s.stream i with orderMode := .strict }) i
            (if q.packet.stream = i then q.order else (s.stream i).nextOrder)) q rest (.mgmtResp .ok none))))) ∧
    (ManagerHead s q rest (.mgmtWrite ⟨1, i.val, 1⟩ v) →
      (1 < v.toNat ∨ (v = 0 ∧ (s.stream i).manager = true ∧ ∀ j, j ≠ i → (s.stream j).manager = false) →
        exec .managerWrite s = .next (answered s q rest (.mgmtResp .badValue none))) ∧
      (v = 1 → exec .managerWrite s = .next (answered
        (withStream s i { s.stream i with manager := true }) q rest (.mgmtResp .ok none))) ∧
      (∀ j, v = 0 → j ≠ i → (s.stream j).manager = true → exec .managerWrite s = .next (answered
        (withStream s i { s.stream i with manager := false }) q rest (.mgmtResp .ok none)))) ∧
    (ManagerHead s q rest (.mgmtWrite ⟨1, i.val, 2⟩ v) →
      (1 < v.toNat ∨ (v = 0 ∧ (s.stream i).noticeTarget = true) →
        exec .noticeTargetWrite s = .next (answered s q rest (.mgmtResp .badValue none))) ∧
      (v = 0 → (s.stream i).noticeTarget = false →
        exec .noticeTargetWrite s = .next (answered s q rest (.mgmtResp .ok none))) ∧
      (v = 1 → ∃ t, exec .noticeTargetWrite s = .next t ∧
        (∀ j, t.stream j = { s.stream j with noticeTarget := j == i }) ∧
        t = answered { s with intake := { s.intake with streams := t.intake.streams } } q rest (.mgmtResp .ok none))) ∧
    (∀ e, 3 < e →
      (ManagerHead s q rest (.mgmtWrite ⟨1, e, 0⟩ v) →
        exec .orderModeWrite s = .next (answered s q rest (.mgmtResp .badIndex none))) ∧
      (ManagerHead s q rest (.mgmtWrite ⟨1, e, 1⟩ v) →
        exec .managerWrite s = .next (answered s q rest (.mgmtResp .badIndex none))) ∧
      (ManagerHead s q rest (.mgmtWrite ⟨1, e, 2⟩ v) →
        exec .noticeTargetWrite s = .next (answered s q rest (.mgmtResp .badIndex none))))

/-- MAP_TABLE_WRITE, CHANNEL_SETTINGS_WRITE and ROWS_PER_BANK_WRITE: what is written reads back, every other field of
the same tables stays, settings_pending becomes yes at a change; and the refusals in their order, with the ranges of the
fields as file 02, section 2.1 and file 07, section 7.4 give them (Safety.lean). -/
def Obligations.TableWritesReadBack : Prop :=
  ∀ (s : State) (q : QueuedPacket) (rest : List QueuedPacket) (a : MgmtAddr) (v : Word32),
    ManagerHead s q rest (.mgmtWrite a v) →
    (a.table = 2 ∨ a.table = 4 → MapIndex a → MapRange a v.toNat →
      ∃ t, exec .mapTableWrite s = .next t ∧ t.readField a = some v.toNat ∧
        (∀ b, b ≠ a → b.table ∈ [2, 3, 4, 5] → t.readField b = s.readField b) ∧
        t = answered { s with map := { s.map with shadowRegions := t.map.shadowRegions,
                                                  shadowLayouts := t.map.shadowLayouts } } q rest (.mgmtResp .ok none)) ∧
    (a.table ∈ [2, 3, 4, 5] →
      (¬MapIndex a → exec .mapTableWrite s = .next (answered s q rest (.mgmtResp .badIndex none))) ∧
      (MapIndex a → a.table = 3 ∨ a.table = 5 →
        exec .mapTableWrite s = .next (answered s q rest (.mgmtResp .readOnlyField none))) ∧
      (MapIndex a → a.table = 2 ∨ a.table = 4 → ¬MapRange a v.toNat →
        exec .mapTableWrite s = .next (answered s q rest (.mgmtResp .badValue none)))) ∧
    (a.table = 6 → 1 < a.entry → exec (if a.field = 22 then .rowsPerBankWrite else .channelSettingsWrite) s =
      .next (answered s q rest (.mgmtResp .badIndex none))) ∧
    (∀ (c : Chan) (i : Instr), a.table = 6 → a.entry = c.val →
      i = (if a.field = 22 then .rowsPerBankWrite else .channelSettingsWrite) →
      (22 < a.field → exec i s = .next (answered s q rest (.mgmtResp .badIndex none))) ∧
      (a.field ≤ 22 →
        ((s.chan c).state ∉ [ChanState.uninit, .held] →
          exec i s = .next (answered s q rest (.mgmtResp .notHeld none))) ∧
        ((s.chan c).state ∈ [ChanState.uninit, .held] →
          ((s.chan c).longCmd ≠ none → exec i s = .next (answered s q rest (.mgmtResp .busy none))) ∧
          ((s.chan c).longCmd = none →
            (¬SettingRange a.field v.toNat →
              exec i s = .next (answered s q rest (.mgmtResp .badValue none))) ∧
            (SettingRange a.field v.toNat →
              (a.field = 22 → (∃ r ∈ validRegions s.map.liveRegions, ∃ lo hi,
                footprint s.map.liveLayouts r c = some (lo, hi) ∧ v.toNat ≤ hi) →
                exec i s = .next (answered s q rest (.mgmtResp .geometryConflict none))) ∧
              ((a.field = 22 → ∀ r ∈ validRegions s.map.liveRegions, ∀ lo hi,
                footprint s.map.liveLayouts r c = some (lo, hi) → hi < v.toNat) →
                ∃ t x, exec i s = .next t ∧ t.readField a = some v.toNat ∧
                  (∀ k, k ≠ a.field → x.field k = (s.chan c).settings.field k) ∧
                  (t.chan c).settingsPending =
                    ((s.chan c).settingsPending || decide ((s.chan c).settings.field a.field ≠ some v.toNat)) ∧
                  t = answered (s.setChan c
                    { s.chan c with settings := x, settingsPending := (t.chan c).settingsPending }) q rest (.mgmtResp .ok none)))))))

/-- URGENCY_THRESHOLD_WRITE, TRIM_SETTINGS_WRITE, NOTICE_ENABLE_WRITE, and MGMT_WRITE of trim_grace_us and
stale_timeout_ms: the setting stored with its effect, after which the channels settle where a trim interval changed;
BAD_VALUE out of range or with trim_min_ms above trim_max_ms; BAD_INDEX for an entry other than 0 or a field above 9; and a
MGMT_WRITE to any other field with no row of its own: READ_ONLY_FIELD where it exists, else BAD_INDEX (which row serves
which write: log entry 13). What is stored reads back, and every other setting as before. -/
def Obligations.MaintenanceWrites : Prop :=
  ∀ (s : State) (q : QueuedPacket) (rest : List QueuedPacket) (k : Nat) (v : Word32) (m : MaintSettings),
    k ≤ 9 → m = s.mgmt.settings.withField k v.toNat →
    (ManagerHead s q rest (.mgmtWrite ⟨7, 0, k⟩ v) →
      ¬MaintenancePasses s.mgmt.settings k v.toNat →
      exec (writeRow ⟨7, 0, k⟩) s = .next (answered s q rest (.mgmtResp .badValue none))) ∧
    (ManagerHead s q rest (.mgmtWrite ⟨7, 0, k⟩ v) →
      MaintenancePasses s.mgmt.settings k v.toNat →
      (∃ t, exec (writeRow ⟨7, 0, k⟩) s = .next t ∧ t.readField ⟨7, 0, k⟩ = some v.toNat ∧
        (entryFields t 7 0)[k]? = some v ∧ ∀ j, j ≠ k → t.readField ⟨7, 0, j⟩ = s.readField ⟨7, 0, j⟩ ∧
          (entryFields t 7 0)[j]? = (entryFields s 7 0)[j]?) ∧
      (k = 0 → ∃ u,
        (∀ c, u.chan c = { s.chan c with urgent := decide ((v.toNat : Int) ≤ (s.chan c).debt) }) ∧
        u = taken { s with mgmt := { s.mgmt with settings := m }, chans := u.chans } rest ∧
        exec .urgencyThresholdWrite s = .next (responded u q (.mgmtResp .ok none))) ∧
      (1 ≤ k → k ≤ 6 → ∃ t u, u = taken { s with mgmt := { s.mgmt with settings := m } } rest ∧
        exec .trimSettingsWrite s = .next t ∧ t = responded u.recomputeTrims q (.mgmtResp .ok none) ∧
        (∀ c, t.chan c = ((u.setChan c ((s.chan c).recomputeTrim s.now m s.mgmt.temp.drift)).settle c).chan c) ∧
        (∀ c, (t.chan c).trimInterval = trimIntervalOf m s.mgmt.temp.drift) ∧
        t.link = u.link ∧ t.intake = u.intake ∧ t.map = s.map ∧ t.mgmt = u.mgmt ∧ t.now = s.now ∧ t.pending = s.pending) ∧
      (k = 7 ∨ k = 8 → exec .mgmtWrite s =
        .next (answered { s with mgmt := { s.mgmt with settings := m } } q rest (.mgmtResp .ok none))) ∧
      (k = 9 → ∃ l, (∀ n, n ∈ l ↔ n ∈ s.mgmt.notices ∧ v.toNat.testBit n.kind.number = true) ∧
        exec .noticeEnableWrite s = .next (answered { s with
          mgmt := { s.mgmt with settings := m, notices := l }
          ret := { s.ret with noticeWait := if l = [] then 0 else s.ret.noticeWait } } q rest (.mgmtResp .ok none)))) ∧
    (∀ a : MgmtAddr, ManagerHead s q rest (.mgmtWrite a v) → a.table = 7 → a.entry ≠ 0 ∨ 9 < a.field →
      exec (writeRow a) s = .next (answered s q rest (.mgmtResp .badIndex none))) ∧
    (∀ a : MgmtAddr, ManagerHead s q rest (.mgmtWrite a v) → writeRow a = .mgmtWrite → a.table ≠ 7 →
      ((s.readField a).isSome = true → exec .mgmtWrite s = .next (answered s q rest (.mgmtResp .readOnlyField none))) ∧
      (s.readField a = none → exec .mgmtWrite s = .next (answered s q rest (.mgmtResp .badIndex none))))

/-- TEMPERATURE_REPORT: answered OK with its credit owed; the record after the report, with the drift and the band as
computed; the interval cut of a heating channel (by the stored refresh_interval, log entry 30), and each channel's
recomputed trim interval, after which it settles; TEMP_OVER; BAD_VALUE outside −80 to 254, and BAD_INDEX for an entry other than 0. -/
def Obligations.TemperatureReportTaken : Prop :=
  ∀ (s : State) (q : QueuedPacket) (rest : List QueuedPacket) (v : Word32),
    (∀ e, e ≠ 0 → ManagerHead s q rest (.mgmtWrite ⟨8, e, 0⟩ v) →
      exec .temperatureReport s = .next (answered s q rest (.mgmtResp .badIndex none))) ∧
    (ManagerHead s q rest (.mgmtWrite ⟨8, 0, 0⟩ v) →
    (v.toInt < -80 ∨ 254 < v.toInt →
      exec .temperatureReport s = .next (answered s q rest (.mgmtResp .badValue none))) ∧
    (-80 ≤ v.toInt → v.toInt ≤ 254 → ∃ t ended, exec .temperatureReport s = .next t ∧
      t.link = { s.link with owed := s.link.owed + 1 } ∧
      t.ret.queue = s.ret.queue ++ ended ++ [⟨q.packet.stream, q.packet.tag, q.order, .mgmtResp .ok none, false⟩] ∧
      ((∀ c, ¬DrainConditions (s.chan c)) → ended = []) ∧
      t.ret = { s.ret with queue := t.ret.queue, noticeWait := t.ret.noticeWait } ∧
      t.mgmt.temp.last = some v.toInt ∧ t.mgmt.temp.lastTime = s.now / 4000000 ∧
      t.mgmt.temp.prev = s.mgmt.temp.last ∧
      (s.mgmt.temp.last ≠ none → t.mgmt.temp.prevTime = s.mgmt.temp.lastTime) ∧
      t.mgmt.temp.stale = false ∧
      t.mgmt.temp.staleTimer = .running s.now (s.now + s.mgmt.settings.staleTimeoutMs * 4000000) ∧
      t.mgmt.temp.band = (if v.toInt < 170 then .normal else if v.toInt < 190 then .hot else .over) ∧
      (s.mgmt.temp.last = none → t.mgmt.temp.drift = 0) ∧
      (∀ p, s.mgmt.temp.last = some p → t.mgmt.temp.drift =
        (v.toInt - p).natAbs * 50000 / max 1 (s.now / 4000000 - s.mgmt.temp.lastTime)) ∧
      (∀ c, (t.chan c).trimInterval = trimIntervalOf s.mgmt.settings t.mgmt.temp.drift) ∧
      (∀ c st e, (s.chan c).interval = .running st e → s.mgmt.temp.band = .normal → 170 ≤ v.toInt →
        (t.chan c).interval = .running st (if (s.chan c).settings.refreshInterval / 2
            < (s.chan c).settings.refreshInterval ∧ s.now + (s.chan c).settings.refreshInterval / 2 < e
          then s.now + (s.chan c).settings.refreshInterval / 2 else e)) ∧
      (∀ c, s.mgmt.temp.band ≠ .normal ∨ v.toInt < 170 ∨ (s.chan c).interval.isRunning = false →
        (t.chan c).interval = (s.chan c).interval) ∧
      (∀ c, t.chan c = ((s.setChan c ({ s.chan c with interval := (t.chan c).interval }.recomputeTrim s.now
        s.mgmt.settings t.mgmt.temp.drift)).settle c).chan c) ∧
      (s.mgmt.temp.band ≠ .over → 190 ≤ v.toInt → s.mgmt.settings.noticeEnable.testBit 0 = true →
        (∀ n ∈ s.mgmt.notices, n.kind ≠ .tempOver) → ⟨.tempOver, none, BitVec.ofInt 32 v.toInt⟩ ∈ t.mgmt.notices) ∧
      (s.mgmt.temp.band ≠ .over → 190 ≤ v.toInt →
        t.mgmt.notices = (s.raiseNotice ⟨.tempOver, none, BitVec.ofInt 32 v.toInt⟩).mgmt.notices ∧
        t.ret.noticeWait = (s.raiseNotice ⟨.tempOver, none, BitVec.ofInt 32 v.toInt⟩).ret.noticeWait) ∧
      (s.mgmt.temp.band = .over ∨ v.toInt < 190 →
        t.mgmt.notices = s.mgmt.notices ∧ t.ret.noticeWait = s.ret.noticeWait) ∧
      t.map = s.map ∧ t.intake = { s.intake with queue := rest } ∧ t.mgmt.settings = s.mgmt.settings ∧
      t.mgmt.fault = s.mgmt.fault ∧ t.now = s.now ∧ t.pending = s.pending))

/-! ## Channel commands and device commands -/

/-- The validation of R121: INIT and RESUME are answered BAD_TIMING, with the channel left as it is, when a timing
setting other than idle_timeout is 0, open_cycle is below open_min + close_time, refresh_interval is below eight times
refresh_time + close_time, or trim_long is below trim_short; the defaults pass. -/
def Obligations.SettingsValidation : Prop :=
  (∀ (s : State) (q : QueuedPacket) (rest : List QueuedPacket) (c : Chan) (n : Nat) (v : Option Word32) (x : Settings),
    ManagerHead s q rest (.mgmtCommand n c.val v) → (s.chan c).longCmd = none → x = (s.chan c).settings →
    (x.openToAccess = 0 ∨ x.openMin = 0 ∨ x.closeTime = 0 ∨ x.openCycle = 0 ∨ x.openSpacing = 0 ∨ x.windowTime = 0 ∨
      x.burstTime = 0 ∨ x.readReturn = 0 ∨ x.writeRecovery = 0 ∨ x.writeToRead = 0 ∨ x.readToWrite = 0 ∨
      x.refreshTime = 0 ∨ x.refreshInterval = 0 ∨ x.trimShort = 0 ∨ x.trimLong = 0 ∨ x.dozeExit = 0 ∨
      x.retainExitShort = 0 ∨ x.retainExitLong = 0 ∨ x.settleTime = 0 ∨ x.rowHold = 0 ∨ x.powerupWait = 0 ∨
      x.openCycle < x.openMin + x.closeTime ∨ x.refreshInterval < 8 * (x.refreshTime + x.closeTime) ∨
      x.trimLong < x.trimShort ↔ x.invalid = true) ∧
    (x.invalid = true →
      (n = 1 → (s.chan c).state = .uninit ∨ (s.chan c).state = .held →
        exec .init s = .next (answered s q rest (.mgmtResp .badTiming none))) ∧
      (n = 3 → (s.chan c).state = .held →
        exec .resume s = .next (answered s q rest (.mgmtResp .badTiming none))))) ∧
  settingsAtReset.invalid = false

/-- HOLD, RETAIN and TRIM_LONG accepted: the record filled, the new state with the doze ended first, the long-trim-due
request pending; then the channel settles (a drain that is complete at once ends the HOLD). -/
def Obligations.HoldRetainTrimLongAccepted : Prop :=
  ∀ (s : State) (q : QueuedPacket) (rest : List QueuedPacket) (c : Chan) (n : Nat) (v : Option Word32),
    ManagerHead s q rest (.mgmtCommand n c.val v) → (s.chan c).longCmd = none →
    ((s.chan c).state = .active →
      (n = 2 → exec .hold s = .next (((taken s rest).setChan c
        { s.chan c with state := .holding, longCmd := record .hold q }).settle c)) ∧
      (n = 4 → exec .retain s = .next (((taken s rest).setChan c
        { s.chan c with state := .retainPending, longCmd := record .retain q }).settle c)) ∧
      (n = 6 → exec .trimLong s = .next (((taken s rest).setChan c
        { s.chan c with longTrimRequest := true, longCmd := record .trimLong q }).settle c))) ∧
    ((s.chan c).state = .doze →
      (n = 2 → exec .hold s = .next (((taken s rest).setChan c { s.chan c with
        state := .holding, longCmd := record .hold q, lastCommand := some .dozeExit
        dozeExit := .running s.now (s.now + (s.chan c).settings.dozeExit) }).settle c)) ∧
      (n = 4 → exec .retain s = .next (((taken s rest).setChan c { s.chan c with
        state := .retainPending, longCmd := record .retain q, lastCommand := some .dozeExit
        dozeExit := .running s.now (s.now + (s.chan c).settings.dozeExit) }).settle c)) ∧
      (n = 6 → exec .trimLong s = .next (((taken s rest).setChan c { s.chan c with
        state := .active, longTrimRequest := true, longCmd := record .trimLong q, lastCommand := some .dozeExit
        dozeExit := .running s.now (s.now + (s.chan c).settings.dozeExit) }).settle c))) ∧
    ((s.chan c).state = .held → n = 6 → exec .trimLong s = .next (((taken s rest).setChan c
      { s.chan c with longTrimRequest := true, longCmd := record .trimLong q }).settle c))

/-- INIT, RESUME and WAKE accepted: INIT enters STARTING, its account and trim timers stopped, powerup_wait running, its
DRAM contents undefined, and the long command recorded; RESUME enters ACTIVE at once, or waits for the settings write; WAKE
starts a wake from RETAINED and changes nothing in ACTIVE and DOZE. -/
def Obligations.InitResumeWakeAccepted : Prop :=
  ∀ (s : State) (q : QueuedPacket) (rest : List QueuedPacket) (c : Chan) (n : Nat) (v : Option Word32),
    ManagerHead s q rest (.mgmtCommand n c.val v) → (s.chan c).longCmd = none →
    (n = 1 → (s.chan c).state = .uninit ∨ (s.chan c).state = .held → (s.chan c).settings.invalid = false →
      exec .init s = .next (taken (s.setChan c { s.chan c with
        state := .starting, seqStep := .powerup
        powerupWait := .running s.now (s.now + (s.chan c).settings.powerupWait * 4000)
        debt := 0, urgent := false, interval := .stopped
        trimTimer := .stopped, graceTimer := .stopped, shortTrimDue := false, graceForce := false
        longCmd := record .init q, idleTimer := .stopped
        dram := [], dramGen := (s.chan c).dramGen + 1 }) rest)) ∧
    (n = 3 → (s.chan c).state = .held → (s.chan c).settings.invalid = false →
      ((s.chan c).settingsPending = false → exec .resume s =
        .next ((answered (s.setChan c { s.chan c with state := .active }) q rest (.mgmtResp .ok none)).settle c)) ∧
      ((s.chan c).settingsPending = true → exec .resume s =
        .next (((taken s rest).setChan c { s.chan c with longCmd := record .resume q }).settle c))) ∧
    (n = 5 →
      ((s.chan c).state = .active ∨ (s.chan c).state = .doze →
        exec .wake s = .next (answered s q rest (.mgmtResp .ok none))) ∧
      ((s.chan c).state = .retained → exec .wake s = .next (((taken s rest).setChan c { s.chan c with
        state := .waking, seqStep := .shortExit, longCmd := record .wake q, lastCommand := some .retentionExit
        retainExitShort := .running s.now (s.now + (s.chan c).settings.retainExitShort)
        retainExitLong := .running s.now (s.now + (s.chan c).settings.retainExitLong) }).settle c)))

/-- What every event of a channel ends with: a HOLDING channel with an empty pool, no burst, every bank CLOSED and no doze_exit
wait (R125) enters HELD and ends its HOLD, an operation in progress and a force in effect continuing (R80; how R79 and R124
are read beside R125: log entry 27); the idle timer runs exactly in an idle ACTIVE channel. Nothing else changes. -/
def Obligations.SettleEndsDrainAndJudgesIdle : Prop :=
  ∀ (s : State) (c d : Chan) (x : Channel), x = s.chan c → c ≠ d →
    (s.settle c).chan d = s.chan d ∧ (s.settle c).link = s.link ∧ (s.settle c).intake = s.intake ∧
    (s.settle c).map = s.map ∧ (s.settle c).mgmt = s.mgmt ∧ (s.settle c).now = s.now ∧
    (s.settle c).pending = s.pending ∧
    (DrainConditions x →
      (s.settle c).chan c = { x with state := .held, longCmd := none, idleTimer := .stopped } ∧
      (∀ r, x.longCmd = some r → r.answerable = true → (s.settle c).ret =
        { s.ret with queue := s.ret.queue ++ [⟨r.stream, r.tag, r.order, .mgmtResp .ok none, false⟩] }) ∧
      ((∀ r, x.longCmd = some r → r.answerable = false) → (s.settle c).ret = s.ret)) ∧
    (¬DrainConditions x →
      (s.settle c).ret = s.ret ∧
      (x.state = .active ∧ AtRest x ∧ x.maint = none ∧ x.shortTrimDue = false ∧ x.longTrimRequest = false ∧ x.debt ≤ 0 ∧
          x.dozeExit.isRunning = false ∧ x.settings.idleTimeout ≠ 0 →
        (s.settle c).chan c = { x with idleTimer :=
          if x.idleTimer.isRunning then x.idleTimer else .running s.now (s.now + x.settings.idleTimeout) }) ∧
      (¬(x.state = .active ∧ AtRest x ∧ x.maint = none ∧ x.shortTrimDue = false ∧ x.longTrimRequest = false ∧ x.debt ≤ 0 ∧
          x.dozeExit.isRunning = false ∧ x.settings.idleTimeout ≠ 0) →
        (s.settle c).chan c = { x with idleTimer := .stopped }))

/-- COMMIT_MAP: refused with the first condition that holds, with nothing changed; else the shadow tables become live in
one step, the epoch advances and the current count becomes the previous one, and with no request outstanding MAP_DRAINED is
raised (SharedEndings). Nothing else changes. -/
def Obligations.CommitMapChecksAndCommits : Prop :=
  ∀ (s : State) (q : QueuedPacket) (rest : List QueuedPacket) (ch : Nat) (v : Option Word32) (rs : List Region)
    (u : State), ManagerHead s q rest (.mgmtCommand 16 ch v) → rs = validRegions s.map.shadowRegions →
    u = { s with map := { s.map with
      liveRegions := s.map.shadowRegions, liveLayouts := s.map.shadowLayouts
      epoch := s.map.epoch + 1, previous := s.map.current, current := 0 } } →
    (s.map.previous ≠ 0 → exec .commitMap s = .next (answered s q rest (.mgmtResp .busy none))) ∧
    (s.map.previous = 0 →
      ((∃ r ∈ rs, r.base.toNat % 4096 ≠ 0 ∨ (r.limit.toNat + 1) % 4096 ≠ 0 ∨ r.limit < r.base ∨ 3 < r.layout) →
        exec .commitMap s = .next (answered s q rest (.mgmtResp .badLayout none))) ∧
      ((∀ r ∈ rs, r.base.toNat % 4096 = 0 ∧ (r.limit.toNat + 1) % 4096 = 0 ∧ r.base ≤ r.limit ∧ r.layout ≤ 3) →
        (¬rs.Pairwise (fun r p => ¬∃ a : HostAddr, r.base ≤ a ∧ a ≤ r.limit ∧ p.base ≤ a ∧ a ≤ p.limit) →
          exec .commitMap s = .next (answered s q rest (.mgmtResp .overlap none))) ∧
        (rs.Pairwise (fun r p => ¬∃ a : HostAddr, r.base ≤ a ∧ a ≤ r.limit ∧ p.base ≤ a ∧ a ≤ p.limit) →
          ((∃ r ∈ rs, ∃ (c : Chan) (lo hi : Nat), footprint s.map.shadowLayouts r c = some (lo, hi) ∧
              (s.chan c).settings.rowsPerBank ≤ hi) →
            exec .commitMap s = .next (answered s q rest (.mgmtResp .outOfRows none))) ∧
          ((∀ r ∈ rs, ∀ (c : Chan) (lo hi : Nat), footprint s.map.shadowLayouts r c = some (lo, hi) →
              hi < (s.chan c).settings.rowsPerBank) →
            (¬rs.Pairwise (fun r p => ∀ c : Chan, aliasesOn s.map.shadowLayouts r p c = false) →
              exec .commitMap s = .next (answered s q rest (.mgmtResp .alias_ none))) ∧
            (rs.Pairwise (fun r p => ∀ c : Chan, aliasesOn s.map.shadowLayouts r p c = false) →
              ∃ t, exec .commitMap s = .next t ∧
                t.map = { s.map with liveRegions := s.map.shadowRegions, liveLayouts := s.map.shadowLayouts
                                     epoch := s.map.epoch + 1, previous := s.map.current, current := 0 } ∧
                t.ret.queue = s.ret.queue ++ [⟨q.packet.stream, q.packet.tag, q.order, .mgmtResp .ok none, false⟩] ∧
                t = answered (if s.map.current = 0
                  then u.raiseNotice ⟨.mapDrained, none, BitVec.ofNat 32 s.map.epoch.toNat⟩ else u) q rest
                  (.mgmtResp .ok none) ∧
                (s.map.current ≠ 0 → t.mgmt = s.mgmt) ∧
                (s.map.current = 0 → s.mgmt.notices = [] → s.mgmt.settings.noticeEnable.testBit 3 = true →
                  t.mgmt.notices = [⟨.mapDrained, none, BitVec.ofNat 32 s.map.epoch.toNat⟩]) ∧
                t.chans = s.chans ∧ t.intake = { s.intake with queue := rest })))))

/-- COPY_LIVE_TO_SHADOW (R31): every live region and layout entry is copied to the shadow entry; answered OK at once;
the live tables, the epoch and the outstanding counts stay, and nothing else changes. -/
def Obligations.CopyLiveToShadow : Prop :=
  ∀ (s : State) (q : QueuedPacket) (rest : List QueuedPacket) (ch : Nat) (v : Option Word32),
    ManagerHead s q rest (.mgmtCommand 17 ch v) →
    exec .copyLiveToShadow s = .next (answered
      { s with map := { s.map with shadowRegions := s.map.liveRegions, shadowLayouts := s.map.liveLayouts } }
      q rest (.mgmtResp .ok none))

/-- CLEAR_FAULT empties the fault record; CLEAR_COUNTERS sets the nine counters of the channels its argument names to 0,
of both when it is absent, and answers BAD_VALUE to 0 and to values above 3; nothing else changes. -/
def Obligations.ClearCommands : Prop :=
  ∀ (s : State) (q : QueuedPacket) (rest : List QueuedPacket) (ch : Nat) (v : Option Word32),
    (ManagerHead s q rest (.mgmtCommand 18 ch v) →
      exec .clearFault s = .next (answered { s with mgmt := { s.mgmt with fault := none } } q rest (.mgmtResp .ok none))) ∧
    (ManagerHead s q rest (.mgmtCommand 19 ch v) →
      (∀ w, v = some w → w.toNat = 0 ∨ 3 < w.toNat →
        exec .clearCounters s = .next (answered s q rest (.mgmtResp .badValue none))) ∧
      ((v = none ∨ ∃ w, v = some w ∧ 1 ≤ w.toNat ∧ w.toNat ≤ 3) → ∃ t, exec .clearCounters s = .next t ∧
        (∀ c, (v = none ∨ ∃ w, v = some w ∧ w.getLsbD c.val = true) →
          t.chan c = { s.chan c with counters := ⟨0, 0, 0, 0, 0, 0, 0, 0, 0⟩ }) ∧
        (∀ c w, v = some w → w.getLsbD c.val = false → t.chan c = s.chan c) ∧
        t = answered { s with chans := t.chans } q rest (.mgmtResp .ok none)))

/-- FUNCTION_RESET: BUSY while a long command runs on either channel, with no effect; else the six steps: notices, fault
record and counters emptied, the Intake reset but for the command's tag with a credit owed for each freed slot, the
pools discarded, the Return Unit reset, and the command's own MGMT_RESP first in the queue. The rest stays: the stream
table, the map but for its counts, the temperature record, the maintenance settings, and of each channel all but its pool,
its counters, row_hold of the emptied banks and the discard flag of its write burst; then the channel settles. MAP_DRAINED
joins the emptied notice set when the epoch before drains. The model's: log entries 16, 25 and 26, as at a link reset. -/
def Obligations.FunctionResetClearsRequestSide : Prop :=
  ∀ (s : State) (q : QueuedPacket) (rest : List QueuedPacket) (ch : Nat) (v : Option Word32),
    ManagerHead s q rest (.mgmtCommand 20 ch v) →
    ((s.chan 0).longCmd ≠ none ∨ (s.chan 1).longCmd ≠ none →
      exec .functionReset s = .next (answered s q rest (.mgmtResp .busy none))) ∧
    ((s.chan 0).longCmd = none → (s.chan 1).longCmd = none → ∃ t, exec .functionReset s = .next t ∧
      t.now = s.now ∧ t.pending = s.pending ∧
      t.ret.queue = [⟨q.packet.stream, q.packet.tag, q.order, .mgmtResp .ok none, true⟩] ∧
      t.ret.nextToSend[q.packet.stream] = q.order ∧
      (∀ j : StreamIx, j ≠ q.packet.stream → t.ret.nextToSend[j] = 0) ∧ t.ret.noticeWait = 0 ∧ SlotsReset s t ∧
      t.intake.queue = [] ∧ t.intake.tags = [(q.packet.stream, q.packet.tag)] ∧
      (∀ j : StreamIx, t.stream j = { s.stream j with nextOrder := 0, flushes := [] }) ∧
      t.link = { s.link with owed := s.link.owed + 1 + rest.length } ∧
      t.mgmt = { s.mgmt with notices := t.mgmt.notices, fault := none } ∧
      (s.map.previous = 0 ∨ t.map.previous ≠ 0 ∨ s.mgmt.settings.noticeEnable.testBit 3 = false →
        t.mgmt.notices = []) ∧
      (s.map.previous ≠ 0 → t.map.previous = 0 → s.mgmt.settings.noticeEnable.testBit 3 = true →
        t.mgmt.notices = [⟨.mapDrained, none, BitVec.ofNat 32 (s.map.epoch - 1).toNat⟩]) ∧
      t.map = { s.map with current := t.map.current, previous := t.map.previous } ∧
      ∀ c : Chan,
        (∀ b : BankIx, (t.chan c).bank b = bankEmptied ((s.chan c).bank b) s.now (s.chan c).settings.rowHold) ∧
        (t.chan c).writeBurst = (s.chan c).writeBurst.map (burstAtReset s.ret.queue c) ∧
        t.chan c = ((s.setChan c { s.chan c with
          pool := [], banks := (t.chan c).banks, writeBurst := (t.chan c).writeBurst
          counters := ⟨0, 0, 0, 0, 0, 0, 0, 0, 0⟩ }).settle c).chan c)

/-! ## The command selector and the DRAM commands -/

/-- OPEN and CLOSE as the selector grants them: the bank, the timers, the window list and the opens counter; then the
channel settles. Nothing else changes. -/
def Obligations.OpenAndCloseIssued : Prop :=
  ∀ (s : State) (c : Chan) (b : BankIx) (x : Channel) (k : Bank), x = s.chan c → k = x.bank b →
    (∀ row, s.grant c = some (.openRow b row) → exec (.openRow c) s = .next ((s.setChan c { x with
      banks := x.banks.set b { k with
        state := .opening row, transition := .running s.now (s.now + x.settings.openToAccess)
        openMin := .running s.now (s.now + x.settings.openMin)
        openCycle := .running s.now (s.now + x.settings.openCycle), holdExpired := false, columnSinceOpen := false }
      openSpacing := .running s.now (s.now + x.settings.openSpacing)
      window := x.window ++ [⟨s.now, s.now + x.settings.windowTime⟩]
      counters := { x.counters with opens := bump x.counters.opens }
      lastCommand := some (.openRow b row) }).settle c)) ∧
    (∀ row, s.grant c = some (.closeBank b) → k.state = .opened row →
      exec (.closeBank c) s = .next ((s.setChan c { x with
        banks := x.banks.set b { k with
          state := .closing row, transition := .running s.now (s.now + x.settings.closeTime)
          rowHold := .stopped, holdExpired := false }
        lastCommand := some (.closeBank b) }).settle c))

/-- READ_COLUMN_COMMAND and WRITE_COLUMN_COMMAND as the selector grants them: the pool with its bypass counts, column
spacing, the hits counter, row_hold when the bank's list empties; a read's return timer with the words that then stand in
its line, and of the DRAM only the words its operand names as changed in the cells; a write's burst, its words in the
DRAM, WRITE_DONE and the flush lists. Nothing else changes. A word that was written is the word read, and two places of the
DRAM never share an address. The form of the DRAM contents, and that what changed in the
cells is the command's operand, are the model's (log entries 5, 6, 7). -/
def Obligations.ColumnCommandsIssued : Prop :=
  ∀ (s : State) (c d : Chan) (i : Nat) (e : PoolEntry) (x : Channel) (k : Bank), x = s.chan c → k = x.bank e.bank →
    s.grant c = some (.column i) → x.pool[i]? = some e → c ≠ d →
    (∀ j cs, e.kind = .read j → ∃ t, exec (.readColumnCommand c cs) s = .next t ∧
      t.chan c = { x with
        pool := passedOver x.pool i e, banks := (t.chan c).banks
        columnSpacing := .running s.now (s.now + x.settings.burstTime)
        counters := { x.counters with hits := if k.columnSinceOpen then bump x.counters.hits else x.counters.hits }
        issued := (t.chan c).issued, dram := (t.chan c).dram, lastCommand := some (.readColumn e.bank e.col)
        idleTimer := .stopped } ∧
      (t.chan c).bank e.bank = { k with columnSinceOpen := true, rowHold := ((t.chan c).bank e.bank).rowHold } ∧
      ((t.chan c).bank e.bank).rowHold =
        (if (∃ o ∈ passedOver x.pool i e, o.bank = e.bank) ∨ k.rowHold.isRunning then k.rowHold
          else .running s.now (s.now + x.settings.rowHold)) ∧
      (∀ b, b ≠ e.bank → (t.chan c).bank b = x.bank b) ∧
      (∃ ws, (t.chan c).issued = x.issued ++ [⟨j, ws, s.now + x.settings.readReturn⟩] ∧
        (∀ w : WordIx, ws[w] = (t.chan c).storedWord c (wordAddress e.bank e.row e.col w)) ∧
        (cs = [] → ∀ w : WordIx, ws[w] = x.storedWord c (wordAddress e.bank e.row e.col w))) ∧
      (∀ a, (∀ ch ∈ cs, a ≠ wordAddress e.bank e.row e.col ch.word) →
        dramLookup (t.chan c).dram a = dramLookup x.dram a) ∧
      (∀ before ch behind, cs = before ++ ch :: behind → (∀ o ∈ behind, o.word ≠ ch.word) →
        dramLookup (t.chan c).dram (wordAddress e.bank e.row e.col ch.word) =
          some ⟨ch.data, (x.storedWord c (wordAddress e.bank e.row e.col ch.word)).codeOf, ch.codeFlips⟩) ∧
      (cs = [] → (t.chan c).dram = x.dram) ∧ t.now = s.now ∧ t.pending = s.pending ∧
      t.chan d = s.chan d ∧ t.link = s.link ∧ t.intake = s.intake ∧ t.map = s.map ∧ t.mgmt = s.mgmt ∧ t.ret = s.ret) ∧
    (∀ dt en, e.kind = .write dt en → ∃ t, exec (.writeColumnCommand c) s = .next t ∧
      t.chan c = { x with
        pool := passedOver x.pool i e, banks := (t.chan c).banks
        columnSpacing := .running s.now (s.now + x.settings.burstTime)
        counters := { x.counters with hits := if k.columnSinceOpen then bump x.counters.hits else x.counters.hits }
        writeBurst := some ⟨e.bank, e.stream, e.tag, e.order, e.epoch, false, s.now + x.settings.burstTime⟩
        dram := (t.chan c).dram, lastCommand := some (.writeColumn e.bank e.col), idleTimer := .stopped } ∧
      (t.chan c).bank e.bank =
        { k with columnSinceOpen := true, writeBurst := true, rowHold := ((t.chan c).bank e.bank).rowHold } ∧
      ((t.chan c).bank e.bank).rowHold =
        (if (∃ o ∈ passedOver x.pool i e, o.bank = e.bank) ∨ k.rowHold.isRunning then k.rowHold
          else .running s.now (s.now + x.settings.rowHold)) ∧
      (∀ b, b ≠ e.bank → (t.chan c).bank b = x.bank b) ∧
      (∀ w : WordIx, en.getLsbD w = true →
        dramLookup (t.chan c).dram (wordAddress e.bank e.row e.col w) = some ⟨dt[w], dt[w], 0⟩) ∧
      (∀ a, (∀ w : WordIx, en.getLsbD w = true → a ≠ wordAddress e.bank e.row e.col w) →
        dramLookup (t.chan c).dram a = dramLookup x.dram a) ∧
      (t.stream e.stream).flushes = ((s.stream e.stream).flushes.map fun r =>
        if orderLater r.order e.order then { r with count := r.count - 1 } else r).dropWhile (·.count = 0) ∧
      t.stream e.stream = { s.stream e.stream with flushes := (t.stream e.stream).flushes } ∧
      (∀ j, j ≠ e.stream → t.stream j = s.stream j) ∧ t.now = s.now ∧ t.pending = s.pending ∧
      t.ret.queue = s.ret.queue ++ ⟨e.stream, e.tag, e.order, .writeDone e.epoch c, false⟩ ::
        (((s.stream e.stream).flushes.map fun r =>
          if orderLater r.order e.order then { r with count := r.count - 1 } else r).takeWhile (·.count = 0)).map
          (fun r => ⟨e.stream, r.tag, r.order, .flushDone, false⟩) ∧
      t.ret = { s.ret with queue := t.ret.queue } ∧
      t.chan d = s.chan d ∧ t.link = s.link ∧ t.intake.queue = s.intake.queue ∧ t.intake.tags = s.intake.tags ∧
      t.map = s.map ∧ t.mgmt = s.mgmt) ∧
    (∀ a w, dramLookup x.dram a = some w → x.storedWord c a = w) ∧
    (∀ (b b' : BankIx) (row row' col col' : Nat) (w w' : WordIx), row < 65536 → row' < 65536 → col < 128 → col' < 128 →
      wordAddress b row col w = wordAddress b' row' col' w' → b = b' ∧ row = row' ∧ col = col' ∧ w = w')

/-- REFRESH, SHORT_TRIM, LONG_TRIM, SETTINGS_WRITE_STEP and RETENTION_ENTRY_STEP as the selector grants them. Nothing else
changes. -/
def Obligations.MaintenanceIssued : Prop :=
  ∀ (s : State) (c : Chan) (x : Channel), x = s.chan c →
    (∀ p, s.grant c = some (.refresh p) → exec (.refresh c) s = .next ((s.setChan c { x with
      maint := some ⟨.refresh, s.now + x.settings.refreshTime⟩, lastCommand := some .refresh
      counters := { x.counters with refreshes := bump x.counters.refreshes
                                    pullIns := if p then bump x.counters.pullIns else x.counters.pullIns } }).settle c)) ∧
    (s.grant c = some .shortTrim → exec (.shortTrim c) s = .next ((s.setChan c { x with
      maint := some ⟨.shortTrim, s.now + x.settings.trimShort⟩, lastCommand := some .shortTrim, graceTimer := .stopped
      counters := { x.counters with trims := bump x.counters.trims } }).settle c)) ∧
    (s.grant c = some .longTrim → exec (.longTrim c) s = .next ((s.setChan c { x with
      maint := some ⟨.longTrim, s.now + x.settings.trimLong⟩, lastCommand := some .longTrim
      graceTimer := .stopped, trimTimer := .stopped
      counters := { x.counters with trims := bump x.counters.trims } }).settle c)) ∧
    (s.grant c = some .settingsWrite → exec (.settingsWriteStep c) s = .next ((s.setChan c { x with
      maint := some ⟨.settingsWrite, s.now + x.settings.settleTime⟩, lastCommand := some .settingsWrite
      settingsPending := false }).settle c)) ∧
    (s.grant c = some .retentionEntry → ∃ t, exec (.retentionEntryStep c) s = .next t ∧
      t.chan c = { x with
        state := .retained, debt := 0, urgent := false, interval := .stopped, lastCommand := some .retentionEntry
        trimTimer := .stopped, graceTimer := .stopped, shortTrimDue := false, graceForce := false
        idleTimer := .stopped, longCmd := none } ∧
      (∀ r, x.longCmd = some r → r.answerable = true → t.ret =
        { s.ret with queue := s.ret.queue ++ [⟨r.stream, r.tag, r.order, .mgmtResp .ok none, false⟩] }) ∧
      ((∀ r, x.longCmd = some r → r.answerable = false) → t.ret = s.ret) ∧ (∀ d, d ≠ c → t.chan d = s.chan d) ∧
      t.link = s.link ∧ t.intake = s.intake ∧ t.map = s.map ∧ t.mgmt = s.mgmt ∧ t.now = s.now ∧ t.pending = s.pending)

/-- What must hold when the selector grants an open, a close or a column command: the bank's own conditions; for an open,
open spacing, the window list below the limit of the band (the fourth law), no force; for a column command, the bank OPEN
on the entry's row, the data bus, no force, no older starved entry of the bank, and no older entry of the same line with
one of the two a WRITE (the seventh law); for all, the channel state (the ninth law), no doze_exit wait, no operation. An open
is for the oldest entry of its bank. And which one is granted where no maintenance is: under a force the lowest bank that
may be closed; else the first of the oldest starved entry's step, the oldest hit, a close, an open (R74 to R78). That a
write waits for the write burst before it is the model's deduction (log entry 8). -/
def Obligations.ServingGrants : Prop :=
  (∀ (s : State) (c : Chan) (b : BankIx) (x : Channel), x = s.chan c →
    (∀ row, s.grant c = some (.openRow b row) →
      (x.bank b).state = .closed ∧ (x.bank b).openCycle.isRunning = false ∧ x.openSpacing.isRunning = false ∧
      x.window.length < (if s.band = .over then 2 else 4) ∧
      x.state ∈ [ChanState.active, .holding, .held, .retainPending] ∧ x.dozeExit.isRunning = false ∧ x.maint = none ∧
      x.urgent = false ∧ x.graceForce = false ∧ x.longTrimRequest = false ∧
      ∃ e ∈ x.pool, e.bank = b ∧ e.row = row) ∧
    (s.grant c = some (.closeBank b) →
      (∃ row, (x.bank b).state = .opened row) ∧ (x.bank b).openMin.isRunning = false ∧ (x.bank b).writeBurst = false ∧
      (x.bank b).writeRecovery.isRunning = false ∧
      x.state ∈ [ChanState.active, .holding, .held, .retainPending] ∧ x.dozeExit.isRunning = false ∧ x.maint = none)) ∧
  (∀ (s : State) (c : Chan) (i : Nat) (x : Channel), x = s.chan c → s.grant c = some (.column i) →
    x.state ∈ [ChanState.active, .holding, .held, .retainPending] ∧ x.dozeExit.isRunning = false ∧ x.maint = none ∧
    x.urgent = false ∧ x.graceForce = false ∧ x.longTrimRequest = false ∧ x.columnSpacing.isRunning = false ∧
    ∃ e, x.pool[i]? = some e ∧ (x.bank e.bank).state = .opened e.row ∧
      (∀ o ∈ x.pool.take i, o.bank = e.bank → o.starved = false) ∧
      (∀ o ∈ x.pool.take i, o.bank = e.bank → o.row = e.row → o.col = e.col → o.isWrite = false ∧ e.isWrite = false) ∧
      (e.isWrite = false → x.writeBurst = none ∧ x.writeToRead.isRunning = false) ∧
      (e.isWrite = true → x.readBurst = none ∧ x.readToWrite.isRunning = false ∧
        ∀ r ∈ x.issued, x.settings.burstTime ≤ r.expires - s.now)) ∧
  (∀ (s : State) (c : Chan) (b : BankIx) (row : Nat), BypassLaw s → s.grant c = some (.openRow b row) →
    ∃ i e, (s.chan c).pool[i]? = some e ∧ e.bank = b ∧ e.row = row ∧ ∀ o ∈ (s.chan c).pool.take i, o.bank ≠ b) ∧
  (∀ (s : State) (c : Chan) (x : Channel), x = s.chan c →
    x.state ∈ [ChanState.active, .holding, .held, .retainPending] → x.dozeExit.isRunning = false → x.maint = none →
    (x.allClosed = true → NoMaintenance x) →
    (Forced x →
      (∀ b, Lowest (fun b => MayClose (x.bank b)) b → s.grant c = some (.closeBank b)) ∧
      ((∀ b, ¬MayClose (x.bank b)) → s.grant c = none)) ∧
    (¬Forced x →
      (∀ g, Oldest x (StarvedStep s x) g → s.grant c = some g) ∧
      (NoEntry x (StarvedStep s x) →
        (∀ g, Oldest x (HitStep s x) g → s.grant c = some g) ∧
        (NoEntry x (HitStep s x) →
          (∀ g, Oldest x (ClearStep x) g → s.grant c = some g) ∧
          (NoEntry x (ClearStep x) →
            (∀ b, Lowest (IdleClose x) b → s.grant c = some (.closeBank b)) ∧
            ((∀ b, ¬IdleClose x b) →
              (∀ g, Oldest x (OpenStep s x) g → s.grant c = some g) ∧
              (NoEntry x (OpenStep s x) → s.grant c = none)))))))

/-- Maintenance is granted only with every bank CLOSED (the eighth law), nothing in progress and no doze_exit wait; and
then exactly the first of these that may be: an urgent refresh, a settings write step, the retention entry, a long trim, a
short trim, a non-urgent refresh, a pull-in. So a refresh in WAKING comes only after retain_exit_short, an urgent one
there too, and neither a non-urgent refresh nor a pull-in while a trim is due, the wake's long trim among them. -/
def Obligations.MaintenanceGrants : Prop :=
  ∀ (s : State) (c : Chan) (x : Channel), x = s.chan c →
    (∀ g, s.grant c = some g → IsMaintenance g →
      x.allClosed = true ∧ x.maint = none ∧ x.dozeExit.isRunning = false ∧
      ((∃ p, g = .refresh p) → RefreshState x) ∧
      (g = .refresh false → 1 ≤ x.debt ∧ ¬TrimDue x ∨ x.urgent = true) ∧
      (g = .refresh true → -7 ≤ x.debt ∧ x.debt ≤ 0 ∧ x.pool = [] ∧ x.noBurst = true ∧ ¬TrimDue x ∧
        x.state ≠ .retainPending) ∧
      (g = .shortTrim ∨ g = .longTrim → x.urgent = false) ∧
      (g = .shortTrim → x.shortTrimDue = true ∧ x.state ∈ [ChanState.active, .holding, .held, .retainPending]) ∧
      (g = .longTrim → (x.state ∈ [ChanState.active, .held] ∧ x.longTrimRequest = true) ∨ LongTrimWaits x) ∧
      (g = .settingsWrite → SettingsMay x) ∧
      (g = .retentionEntry → x.state = .retainPending ∧ x.pool = [] ∧ x.noBurst = true ∧ x.shortTrimDue = false ∧
        x.urgent = false)) ∧
    (x.allClosed = true → x.maint = none → x.dozeExit.isRunning = false →
      (UrgentMay x → s.grant c = some (.refresh false)) ∧
      (¬UrgentMay x →
        (SettingsMay x → s.grant c = some .settingsWrite) ∧
        (¬SettingsMay x →
          (RetentionMay x → s.grant c = some .retentionEntry) ∧
          (¬RetentionMay x →
            (LongTrimMay x → s.grant c = some .longTrim) ∧
            (¬LongTrimMay x →
              (ShortTrimMay x → s.grant c = some .shortTrim) ∧
              (¬ShortTrimMay x →
                (NonUrgentMay x → s.grant c = some (.refresh false)) ∧
                (¬NonUrgentMay x →
                  (PullInMay x → s.grant c = some (.refresh true)) ∧
                  (¬PullInMay x → ∀ g, s.grant c = some g → ¬IsMaintenance g))))))))

/-! ## Expiries, burst ends and completions -/

/-- OPEN_TO_ACCESS_EXPIRY, CLOSE_TIME_EXPIRY, OPEN_MIN_EXPIRY, OPEN_CYCLE_EXPIRY, WRITE_RECOVERY_EXPIRY and
ROW_HOLD_EXPIRY of a due timer: the bank's record after each, and nothing else changed. -/
def Obligations.BankTimersExpire : Prop :=
  ∀ (s : State) (c : Chan) (b : BankIx) (x : Channel) (k : Bank) (st e : Nat), x = s.chan c → k = x.bank b → e ≤ s.now →
    (∀ row, k.state = .opening row → k.transition = .running st e →
      exec (.openToAccessExpiry c b) s = .next (s.setChan c { x with banks := x.banks.set b { k with
        state := .opened row, transition := .stopped
        rowHold := if (∃ o ∈ x.pool, o.bank = b) ∨ k.rowHold.isRunning then k.rowHold
          else .running s.now (s.now + x.settings.rowHold) } })) ∧
    (∀ row, k.state = .closing row → k.transition = .running st e →
      exec (.closeTimeExpiry c b) s = .next ((s.setChan c
        { x with banks := x.banks.set b { k with state := .closed, transition := .stopped } }).settle c)) ∧
    (k.openMin = .running st e → exec (.openMinExpiry c b) s =
      .next (s.setChan c { x with banks := x.banks.set b { k with openMin := .expired } })) ∧
    (k.openCycle = .running st e → exec (.openCycleExpiry c b) s =
      .next (s.setChan c { x with banks := x.banks.set b { k with openCycle := .expired } })) ∧
    (k.writeRecovery = .running st e → exec (.writeRecoveryExpiry c b) s =
      .next (s.setChan c { x with banks := x.banks.set b { k with writeRecovery := .expired } })) ∧
    (k.rowHold = .running st e → exec (.rowHoldExpiry c b) s =
      .next (s.setChan c { x with banks := x.banks.set b { k with rowHold := .stopped, holdExpired := true } }))

/-- COLUMN_SPACING_EXPIRY, WRITE_TO_READ_EXPIRY, READ_TO_WRITE_EXPIRY, OPEN_SPACING_EXPIRY, WINDOW_ENTRY_EXPIRY,
WRITE_BURST_END and READ_BURST_END when due. -/
def Obligations.BusTimersExpire : Prop :=
  ∀ (s : State) (c : Chan) (x : Channel) (st e : Nat), x = s.chan c → e ≤ s.now →
    (x.columnSpacing = .running st e →
      exec (.columnSpacingExpiry c) s = .next (s.setChan c { x with columnSpacing := .expired })) ∧
    (x.writeToRead = .running st e →
      exec (.writeToReadExpiry c) s = .next (s.setChan c { x with writeToRead := .expired })) ∧
    (x.readToWrite = .running st e →
      exec (.readToWriteExpiry c) s = .next (s.setChan c { x with readToWrite := .expired })) ∧
    (x.openSpacing = .running st e →
      exec (.openSpacingExpiry c) s = .next (s.setChan c { x with openSpacing := .expired })) ∧
    (∀ older newer, x.window = older ++ ⟨st, e⟩ :: newer → (∀ w ∈ older, s.now < w.expires) →
      exec (.windowEntryExpiry c) s = .next (s.setChan c { x with window := older ++ newer })) ∧
    (∀ w, x.writeBurst = some w → w.expires = e →
      exec (.writeBurstEnd c) s = .next (if w.discard then (((s.setChan c { x with
          writeBurst := none, writeToRead := .running s.now (s.now + x.settings.writeToRead)
          banks := x.banks.set w.bank { x.bank w.bank with
            writeBurst := false, writeRecovery := .running s.now (s.now + x.settings.writeRecovery) } }).settle c).retire
              w.epoch)
        else ((s.setChan c { x with
          writeBurst := none, writeToRead := .running s.now (s.now + x.settings.writeToRead)
          banks := x.banks.set w.bank { x.bank w.bank with
            writeBurst := false
            writeRecovery := .running s.now (s.now + x.settings.writeRecovery) } }).settle c))) ∧
    (x.readBurst = some e → exec (.readBurstEnd c) s = .next ((s.setChan c { x with
      readBurst := none, readToWrite := .running s.now (s.now + x.settings.readToWrite) }).settle c))

/-- READ_COMPLETION: with its slot RESERVED the words are checked, one changed bit corrected, more marked poisoned, the
slot FILLED and READ_DATA ready, the counters as found, and POISONED raised exactly for a poisoned line; with its slot in
DISCARD the data is dropped, the slot freed and the read retired. Nothing else changes. The bits of a word that have changed
are the data bits that differ from the word its code was made from, and the changed bits of the code (log entry 6). -/
def Obligations.ReadDataArrives : Prop :=
  ∀ (s : State) (c d : Chan) (x : Channel) (p : IssuedRead) (ps : List IssuedRead), x = s.chan c → c ≠ d →
    x.issued = p :: ps → p.expires ≤ s.now → x.readBurst = none →
    (∀ r, s.ret.slots[p.slot] = .reserved r → ∃ t n data poisoned, exec (.readCompletion c) s = .next t ∧
      n = ⟨.poisoned, some c, BitVec.ofNat 32 (r.bank.val * 65536 + r.row)⟩ ∧
      t.chan c = { x with
        issued := ps, readBurst := some (s.now + x.settings.burstTime), counters := (t.chan c).counters } ∧
      (poisoned = 0 → t.ret.noticeWait = s.ret.noticeWait) ∧
      (poisoned ≠ 0 → t.mgmt = (s.raiseNotice n).mgmt ∧ t.ret.noticeWait = (s.raiseNotice n).ret.noticeWait) ∧
      (∀ j : StreamIx, t.ret.nextToSend[j] = s.ret.nextToSend[j]) ∧ t.now = s.now ∧ t.pending = s.pending ∧
      t.ret.slots[p.slot] = .filled r data poisoned ∧
      (∀ j : SlotIx, j ≠ p.slot → t.ret.slots[j] = s.ret.slots[j]) ∧
      (∀ w : WordIx, data[w] = if p.words[w].changedBits = 1 then p.words[w].codeOf else p.words[w].data) ∧
      (∀ w : WordIx, poisoned.getLsbD w = decide (2 ≤ p.words[w].changedBits)) ∧
      t.ret.queue = s.ret.queue ++ [⟨r.stream, r.tag, r.order, .readData r.epoch p.slot, false⟩] ∧
      (t.chan c).issued = ps ∧ (t.chan c).readBurst = some (s.now + x.settings.burstTime) ∧
      (t.chan c).counters = { x.counters with
        correctedWords := bumpBy (wordIxs.countP fun w => p.words[w].changedBits == 1) x.counters.correctedWords
        poisonedWords := bumpBy (wordIxs.countP fun w => 2 ≤ p.words[w].changedBits) x.counters.poisonedWords } ∧
      (poisoned = 0 → t.mgmt = s.mgmt) ∧
      (poisoned ≠ 0 → s.mgmt.settings.noticeEnable.testBit 6 = true →
        (∀ n ∈ s.mgmt.notices, n.kind = .poisoned → n.chan ≠ some c) →
        ⟨.poisoned, some c, BitVec.ofNat 32 (r.bank.val * 65536 + r.row)⟩ ∈ t.mgmt.notices) ∧
      t.mgmt.fault = s.mgmt.fault ∧ (t.chan c).dram = x.dram ∧ t.chan d = s.chan d ∧ t.map = s.map ∧
      t.link = s.link ∧ t.intake = s.intake) ∧
    (∀ r, s.ret.slots[p.slot] = .discard r → exec (.readCompletion c) s =
      .next (((s.setChan c { x with issued := ps, readBurst := some (s.now + x.settings.burstTime) }).setSlot p.slot
        .free).retire r.epoch)) ∧
    (∀ w : StoredWord, w.changedBits =
      (List.range 64).countP (fun i => w.data.getLsbD i != w.codeOf.getLsbD i) + w.codeFlips)

/-- REFRESH_INTERVAL_EXPIRY and REFRESH_COMPLETION: the debt rises by 1 and the timer restarts with the length of the
band; at 8 it stays, and the overdue counter, the fault and the notice are raised; a debt of 1 ends a doze; a completed
refresh lowers the debt by 1, or leaves it 0 where the state holds it there; urgent is judged. -/
def Obligations.RefreshAccountCounts : Prop :=
  ∀ (s : State) (c : Chan) (x : Channel) (n : Nat), x = s.chan c →
    n = (if s.mgmt.temp.band = .normal then x.settings.refreshInterval else x.settings.refreshInterval / 2) →
    (∀ st e, x.interval = .running st e → e ≤ s.now →
      (x.debt < 8 → x.state ≠ .doze → exec (.refreshIntervalExpiry c) s = .next ((s.setChan c { x with
        debt := x.debt + 1, interval := .running s.now (s.now + n)
        urgent := decide ((s.mgmt.settings.urgencyThreshold : Int) ≤ x.debt + 1) }).settle c)) ∧
      (x.debt < 0 → x.state = .doze → exec (.refreshIntervalExpiry c) s = .next ((s.setChan c { x with
        debt := x.debt + 1, interval := .running s.now (s.now + n)
        urgent := decide ((s.mgmt.settings.urgencyThreshold : Int) ≤ x.debt + 1) }).settle c)) ∧
      (x.debt = 0 → x.state = .doze → exec (.refreshIntervalExpiry c) s = .next ((s.setChan c { x with
        debt := 1, interval := .running s.now (s.now + n), state := .active
        dozeExit := .running s.now (s.now + x.settings.dozeExit), lastCommand := some .dozeExit
        urgent := decide ((s.mgmt.settings.urgencyThreshold : Int) ≤ 1) }).settle c)) ∧
      (x.debt = 8 → x.state ≠ .doze → exec (.refreshIntervalExpiry c) s = .next ((State.raiseBoth
        (s.setChan c { x with
          interval := .running s.now (s.now + n)
          urgent := decide ((s.mgmt.settings.urgencyThreshold : Int) ≤ 8)
          counters := { x.counters with overdue := bump x.counters.overdue } })
        ⟨.refreshOverdue, some c, (match s.mgmt.temp.band with | .normal => 0 | .hot => 1 | .over => 2)⟩).settle c))) ∧
    (∀ e, x.maint = some ⟨.refresh, e⟩ → e ≤ s.now →
      (x.state ∈ [ChanState.active, .doze, .holding, .held, .retainPending] ∨
          (x.state = .waking ∧ x.seqStep ≠ .shortExit) →
        exec (.refreshCompletion c) s = .next ((s.setChan c { x with
          maint := none, debt := x.debt - 1
          urgent := decide ((s.mgmt.settings.urgencyThreshold : Int) ≤ x.debt - 1) }).settle c)) ∧
      (x.state ∈ [ChanState.uninit, .starting, .retained] ∨ (x.state = .waking ∧ x.seqStep = .shortExit) →
        exec (.refreshCompletion c) s = .next ((s.setChan c { x with
          maint := none, debt := 0
          urgent := decide ((s.mgmt.settings.urgencyThreshold : Int) ≤ 0) }).settle c)))

/-- TRIM_TIMER_EXPIRY, GRACE_TIMER_EXPIRY, SHORT_TRIM_COMPLETION and LONG_TRIM_COMPLETION when due: a short trim falls due
and its grace begins (ending a doze), the force begins, and a completed trim restarts the trim timer and lets INIT, a
wake and TRIM_LONG go on. -/
def Obligations.TrimTimersAndCompletions : Prop :=
  ∀ (s : State) (c : Chan) (x : Channel) (st e : Nat), x = s.chan c → e ≤ s.now →
    (x.trimTimer = .running st e →
      (x.state ≠ .doze → exec (.trimTimerExpiry c) s = .next ((s.setChan c { x with
        shortTrimDue := true, trimTimer := .stopped
        graceTimer := .running s.now (s.now + s.mgmt.settings.trimGraceUs * 4000) }).settle c)) ∧
      (x.state = .doze → exec (.trimTimerExpiry c) s = .next ((s.setChan c { x with
        shortTrimDue := true, trimTimer := .stopped
        graceTimer := .running s.now (s.now + s.mgmt.settings.trimGraceUs * 4000)
        state := .active, dozeExit := .running s.now (s.now + x.settings.dozeExit)
        lastCommand := some .dozeExit }).settle c))) ∧
    (x.graceTimer = .running st e → x.shortTrimDue = true →
      exec (.graceTimerExpiry c) s = .next (s.setChan c { x with graceTimer := .expired, graceForce := true })) ∧
    (x.maint = some ⟨.shortTrim, e⟩ →
      (x.state ∈ [ChanState.active, .doze, .holding, .held, .retainPending] ∨
          (x.state = .waking ∧ x.seqStep = .longExit) →
        exec (.shortTrimCompletion c) s = .next ((s.setChan c { x with
          maint := none, shortTrimDue := false, graceForce := false
          trimTimer := .running s.now (s.now + x.trimInterval * 4000000) }).settle c)) ∧
      (x.state ∈ [ChanState.uninit, .starting, .retained] ∨ (x.state = .waking ∧ x.seqStep ≠ .longExit) →
        exec (.shortTrimCompletion c) s = .next ((s.setChan c { x with
          maint := none, shortTrimDue := false, graceForce := false }).settle c))) ∧
    (∀ y, y = { x with
        maint := none, shortTrimDue := false, graceForce := false, longTrimRequest := false
        trimTimer := .running s.now (s.now + x.trimInterval * 4000000) } →
      x.maint = some ⟨.longTrim, e⟩ →
      (x.state = .starting → exec (.longTrimCompletion c) s =
        .next ((((s.setChan c y).enterActive c).settle c))) ∧
      (x.state = .waking → x.retainExitLong = .expired → exec (.longTrimCompletion c) s =
        .next ((((s.setChan c y).enterActive c).settle c))) ∧
      (x.state = .waking → x.retainExitLong ≠ .expired → exec (.longTrimCompletion c) s =
        .next ((s.setChan c { y with seqStep := .longExit }).settle c)) ∧
      (x.state ∈ [ChanState.active, .held] → x.longTrimRequest = true → exec (.longTrimCompletion c) s =
        .next (((s.setChan c y).endLong c .ok).settle c)))

/-- What several commands share. A 32-bit counter stops at its maximum (R156, R179); an order number is later than another
by their difference mod 65536 (R8); the numbers of the notice kinds (file 09, section 9.7). And what several commands end
with: the entry to ACTIVE, the end of a long command with its MGMT_RESP exactly when it is answerable, a raised notice (it
joins the notice set exactly when its kind is enabled and its pair is not pending), and a request retired from its epoch
(the previous count reaching 0 raises MAP_DRAINED). -/
def Obligations.SharedEndings : Prop :=
  (∀ (s : State) (c : Chan) (x : Channel), x = s.chan c →
    s.enterActive c = (s.setChan c { x with
      state := .active, seqStep := .none, debt := 0, urgent := false
      interval := .running s.now (s.now + (if s.mgmt.temp.band = .normal then x.settings.refreshInterval
        else x.settings.refreshInterval / 2)) }).endLong c .ok ∧
    (∀ n r, x.longCmd = some r → r.answerable = true → s.endLong c n =
      { s.setChan c { x with longCmd := none } with ret := { s.ret with
        queue := s.ret.queue ++ [⟨r.stream, r.tag, r.order, .mgmtResp n none, false⟩] } }) ∧
    (∀ n r, x.longCmd = some r → r.answerable = false → s.endLong c n = s.setChan c { x with longCmd := none }) ∧
    (∀ n, x.longCmd = none → s.endLong c n = s)) ∧
  ((∀ (s : State) (n : Notice),
    (s.mgmt.settings.noticeEnable.testBit n.kind.number = true →
      (∀ m ∈ s.mgmt.notices, ¬(m.kind = n.kind ∧ m.chan = n.chan)) →
      (∀ m, m ∈ (s.raiseNotice n).mgmt.notices ↔ m = n ∨ m ∈ s.mgmt.notices) ∧
      (s.mgmt.notices = [] → (s.raiseNotice n).ret.noticeWait = 0) ∧
      (s.mgmt.notices ≠ [] → (s.raiseNotice n).ret.noticeWait = s.ret.noticeWait) ∧
      s.raiseNotice n = { s with
        mgmt := { s.mgmt with notices := (s.raiseNotice n).mgmt.notices }
        ret := { s.ret with noticeWait := (s.raiseNotice n).ret.noticeWait } }) ∧
    (s.mgmt.settings.noticeEnable.testBit n.kind.number = false ∨
      (∃ m ∈ s.mgmt.notices, m.kind = n.kind ∧ m.chan = n.chan) → s.raiseNotice n = s)) ∧
  (∀ (s : State) (e : Epoch),
    (e = s.map.epoch → s.retire e = { s with map := { s.map with current := s.map.current - 1 } }) ∧
    (e ≠ s.map.epoch → s.map.previous ≠ 1 →
      s.retire e = { s with map := { s.map with previous := s.map.previous - 1 } }) ∧
    (e ≠ s.map.epoch → s.map.previous = 1 →
      s.retire e = ({ s with map := { s.map with previous := 0 } } : State).raiseNotice
        ⟨.mapDrained, none, BitVec.ofNat 32 (s.map.epoch - 1).toNat⟩)) ∧
  (∀ (n : Nat) (c : Word32), (bump c).toNat = min 0xFFFFFFFF (c.toNat + 1) ∧
    (bumpBy n c).toNat = min 0xFFFFFFFF (c.toNat + n)) ∧
  (∀ a b : OrderNo, orderLater a b = true ↔ 1 ≤ (a - b).toNat ∧ (a - b).toNat ≤ 32767) ∧
  [NoticeKind.tempOver, .tempStale, .refreshOverdue, .mapDrained, .overrun, .tagReuse, .poisoned, .replayFail].map
    NoticeKind.number = [0, 1, 2, 3, 4, 5, 6, 7])

/-- STALE_TIMER_EXPIRY when due: the record is stale, TEMP_STALE is raised with the last report, the timer does not
restart, and a NORMAL band becomes HOT, which cuts the running refresh intervals (log entry 30), while HOT and OVER
stay. Nothing else changes. -/
def Obligations.StaleTimerExpires : Prop :=
  ∀ (s : State) (st e : Nat), s.mgmt.temp.staleTimer = .running st e → e ≤ s.now →
    ∃ t n, exec .staleTimerExpiry s = .next t ∧ n = ⟨.tempStale, none, BitVec.ofInt 32 (s.mgmt.temp.last.getD 0)⟩ ∧
      t = { s.raiseNotice n with
        mgmt := { (s.raiseNotice n).mgmt with temp := { s.mgmt.temp with
          stale := true, staleTimer := .stopped
          band := if s.mgmt.temp.band = .normal then .hot else s.mgmt.temp.band } }
        chans := t.chans } ∧
      (s.mgmt.temp.band ≠ .normal → t.chans = s.chans) ∧
      (∀ c i f, s.mgmt.temp.band = .normal → (s.chan c).interval = .running i f →
        t.chan c = { s.chan c with interval := Timer.running i (if
              (s.chan c).settings.refreshInterval / 2 < (s.chan c).settings.refreshInterval ∧
              s.now + (s.chan c).settings.refreshInterval / 2 < f
            then s.now + (s.chan c).settings.refreshInterval / 2 else f) }) ∧
      (∀ c, (s.chan c).interval.isRunning = false → t.chan c = s.chan c) ∧
      (∀ v, s.mgmt.temp.last = some v → s.mgmt.settings.noticeEnable.testBit 1 = true →
        (∀ m ∈ s.mgmt.notices, m.kind ≠ .tempStale) → ⟨.tempStale, none, BitVec.ofInt 32 v⟩ ∈ t.mgmt.notices) ∧
      t.mgmt.settings = s.mgmt.settings ∧ t.mgmt.fault = s.mgmt.fault ∧ t.link = s.link ∧ t.intake = s.intake ∧
      t.map = s.map ∧ t.ret.queue = s.ret.queue ∧ t.ret.slots = s.ret.slots

/-- IDLE_TIMER_EXPIRY, DOZE_EXIT_EXPIRY, POWERUP_WAIT_EXPIRY, SETTINGS_WRITE_COMPLETION, RETAIN_EXIT_SHORT_EXPIRY and
RETAIN_EXIT_LONG_EXPIRY when due: the doze entered and left, and the steps of start-up, resume and wake. -/
def Obligations.ChannelSequencesStep : Prop :=
  ∀ (s : State) (c : Chan) (x : Channel) (st e : Nat), x = s.chan c → e ≤ s.now →
    (x.idleTimer = .running st e → x.state = .active → exec (.idleTimerExpiry c) s = .next (s.setChan c { x with
      state := .doze, idleTimer := .stopped, lastCommand := some .dozeEntry
      counters := { x.counters with dozes := bump x.counters.dozes } })) ∧
    (x.dozeExit = .running st e → exec (.dozeExitExpiry c) s =
      .next ((s.setChan c { x with dozeExit := .stopped }).settle c)) ∧
    (x.powerupWait = .running st e → x.state = .starting → exec (.powerupWaitExpiry c) s =
      .next (s.setChan c { x with powerupWait := .expired, seqStep := .settingsWrite })) ∧
    (x.maint = some ⟨.settingsWrite, e⟩ →
      (x.state = .starting → exec (.settingsWriteCompletion c) s =
        .next ((s.setChan c { x with maint := none, seqStep := .longTrim }).settle c)) ∧
      (x.state = .held → exec (.settingsWriteCompletion c) s =
        .next (((s.setChan c { x with maint := none, state := .active }).endLong c .ok).settle c))) ∧
    (x.retainExitShort = .running st e → x.state = .waking → exec (.retainExitShortExpiry c) s =
      .next (s.setChan c { x with
        retainExitShort := .expired, seqStep := .longTrim, debt := 0, urgent := false
        interval := .running s.now (s.now + (if s.mgmt.temp.band = .normal then x.settings.refreshInterval
          else x.settings.refreshInterval / 2)) })) ∧
    (x.retainExitLong = .running st e →
      (x.state = .waking → x.seqStep = .longExit → exec (.retainExitLongExpiry c) s =
        .next (((s.setChan c { x with retainExitLong := .expired }).enterActive c).settle c)) ∧
      (x.seqStep ≠ .longExit → exec (.retainExitLongExpiry c) s =
        .next ((s.setChan c { x with retainExitLong := .expired }).settle c)))

/-! ## Shared operations -/

/-- A raised fault (R164): the first fault of an empty record with count 1; else the first is kept and the count rises by
1 up to 255; whatever notices are enabled or pending; two faults are recorded one after the other. -/
def Obligations.FaultRecordKeepsFirst : Prop :=
  ∀ (s : State) (n m : Notice),
    (s.mgmt.fault = none → (s.raiseBoth n).mgmt.fault = some ⟨n.kind, n.chan, n.detail, 1⟩) ∧
    (∀ f, s.mgmt.fault = some f →
      (s.raiseBoth n).mgmt.fault = some { f with count := if f.count < 255 then f.count + 1 else f.count }) ∧
    (s.mgmt.fault = none → ((s.raiseBoth n).raiseBoth m).mgmt.fault = some ⟨n.kind, n.chan, n.detail, 2⟩) ∧
    (∀ t : State, t.mgmt.fault = s.mgmt.fault → (t.raiseBoth n).mgmt.fault = (s.raiseBoth n).mgmt.fault)

/-- The trim interval (R105): trim_max_ms when the rate is 0, else floor(1000 × R / (Ts × Td / 100 + Vs × Vd)) with the
division not rounded, clamped to trim_min_ms and trim_max_ms; and both channels compute the same. -/
def Obligations.TrimIntervalComputed : Prop :=
  (∀ (m : MaintSettings) (td : Nat) (rate : ℚ),
    rate = (m.tempSens : ℚ) * td / 100 + (m.voltSens : ℚ) * m.voltDrift →
    (rate = 0 → trimIntervalOf m td = m.trimMaxMs) ∧
    (rate ≠ 0 →
      (⌊1000 * (m.trimReach : ℚ) / rate⌋ < (m.trimMinMs : ℤ) → trimIntervalOf m td = m.trimMinMs) ∧
      ((m.trimMinMs : ℤ) ≤ ⌊1000 * (m.trimReach : ℚ) / rate⌋ →
        ((m.trimMaxMs : ℤ) < ⌊1000 * (m.trimReach : ℚ) / rate⌋ → trimIntervalOf m td = m.trimMaxMs) ∧
        (⌊1000 * (m.trimReach : ℚ) / rate⌋ ≤ (m.trimMaxMs : ℤ) →
          (trimIntervalOf m td : ℤ) = ⌊1000 * (m.trimReach : ℚ) / rate⌋)))) ∧
  (∀ (s : State) (c : Chan),
    (s.recomputeTrims.chan c).trimInterval = trimIntervalOf s.mgmt.settings s.mgmt.temp.drift)

/-- What a recomputed trim interval does to a channel: the same interval changes nothing; a running timer whose elapsed
time has reached it makes a short trim due at once; else its expiry moves to its start plus the new interval; a stopped
timer only has the new interval for its next start. That the same interval changes nothing whatever the time elapsed is the
model's reading (log entry 20). -/
def Obligations.TrimRecomputation : Prop :=
  ∀ (x : Channel) (now d n : Nat) (m : MaintSettings), n = trimIntervalOf m d →
    (n = x.trimInterval → x.recomputeTrim now m d = x) ∧
    (n ≠ x.trimInterval →
      (∀ st e, x.trimTimer = .running st e →
        (n * 4000000 ≤ now - st → x.state ≠ .doze → x.recomputeTrim now m d = { x with
          trimInterval := n, shortTrimDue := true, trimTimer := .stopped
          graceTimer := .running now (now + m.trimGraceUs * 4000) }) ∧
        (n * 4000000 ≤ now - st → x.state = .doze → x.recomputeTrim now m d = { x with
          trimInterval := n, shortTrimDue := true, trimTimer := .stopped
          graceTimer := .running now (now + m.trimGraceUs * 4000)
          state := .active, dozeExit := .running now (now + x.settings.dozeExit), lastCommand := some .dozeExit }) ∧
        (now - st < n * 4000000 → x.recomputeTrim now m d = { x with
          trimInterval := n, trimTimer := .running st (st + n * 4000000) })) ∧
      (x.trimTimer = .stopped → x.recomputeTrim now m d = { x with trimInterval := n }))

end Statements
end

