-- ==== Sys2Proof/Laws/State.lean ====
section
/-! SUPPORT. What each update of the state does to each field, by rfl, so that no later proof unfolds a record update;
and what a channel, a bank or a stream reads as after an update of it or of another. -/

namespace Sys2Proof.Machine

/-! ### State.modLink -/

@[simp] theorem State.modLink_now (s : State) (f : Link → Link) : (s.modLink f).now = s.now := rfl
@[simp] theorem State.modLink_link (s : State) (f : Link → Link) : (s.modLink f).link = f s.link := rfl
@[simp] theorem State.modLink_intake (s : State) (f : Link → Link) : (s.modLink f).intake = s.intake := rfl
@[simp] theorem State.modLink_map (s : State) (f : Link → Link) : (s.modLink f).map = s.map := rfl
@[simp] theorem State.modLink_chans (s : State) (f : Link → Link) : (s.modLink f).chans = s.chans := rfl
@[simp] theorem State.modLink_ret (s : State) (f : Link → Link) : (s.modLink f).ret = s.ret := rfl
@[simp] theorem State.modLink_mgmt (s : State) (f : Link → Link) : (s.modLink f).mgmt = s.mgmt := rfl
@[simp] theorem State.modLink_pending (s : State) (f : Link → Link) : (s.modLink f).pending = s.pending := rfl
@[simp] theorem State.modLink_chan (s : State) (f : Link → Link) (c : Chan) : (s.modLink f).chan c = s.chan c := rfl

/-! ### State.modIntake -/

@[simp] theorem State.modIntake_now (s : State) (f : Intake → Intake) : (s.modIntake f).now = s.now := rfl
@[simp] theorem State.modIntake_link (s : State) (f : Intake → Intake) : (s.modIntake f).link = s.link := rfl
@[simp] theorem State.modIntake_intake (s : State) (f : Intake → Intake) : (s.modIntake f).intake = f s.intake := rfl
@[simp] theorem State.modIntake_map (s : State) (f : Intake → Intake) : (s.modIntake f).map = s.map := rfl
@[simp] theorem State.modIntake_chans (s : State) (f : Intake → Intake) : (s.modIntake f).chans = s.chans := rfl
@[simp] theorem State.modIntake_ret (s : State) (f : Intake → Intake) : (s.modIntake f).ret = s.ret := rfl
@[simp] theorem State.modIntake_mgmt (s : State) (f : Intake → Intake) : (s.modIntake f).mgmt = s.mgmt := rfl
@[simp] theorem State.modIntake_pending (s : State) (f : Intake → Intake) : (s.modIntake f).pending = s.pending := rfl
@[simp] theorem State.modIntake_chan (s : State) (f : Intake → Intake) (c : Chan) : (s.modIntake f).chan c = s.chan c := rfl

/-! ### State.modMap -/

@[simp] theorem State.modMap_now (s : State) (f : MapUnit → MapUnit) : (s.modMap f).now = s.now := rfl
@[simp] theorem State.modMap_link (s : State) (f : MapUnit → MapUnit) : (s.modMap f).link = s.link := rfl
@[simp] theorem State.modMap_intake (s : State) (f : MapUnit → MapUnit) : (s.modMap f).intake = s.intake := rfl
@[simp] theorem State.modMap_map (s : State) (f : MapUnit → MapUnit) : (s.modMap f).map = f s.map := rfl
@[simp] theorem State.modMap_chans (s : State) (f : MapUnit → MapUnit) : (s.modMap f).chans = s.chans := rfl
@[simp] theorem State.modMap_ret (s : State) (f : MapUnit → MapUnit) : (s.modMap f).ret = s.ret := rfl
@[simp] theorem State.modMap_mgmt (s : State) (f : MapUnit → MapUnit) : (s.modMap f).mgmt = s.mgmt := rfl
@[simp] theorem State.modMap_pending (s : State) (f : MapUnit → MapUnit) : (s.modMap f).pending = s.pending := rfl
@[simp] theorem State.modMap_chan (s : State) (f : MapUnit → MapUnit) (c : Chan) : (s.modMap f).chan c = s.chan c := rfl

/-! ### State.modRet -/

@[simp] theorem State.modRet_now (s : State) (f : ReturnUnit → ReturnUnit) : (s.modRet f).now = s.now := rfl
@[simp] theorem State.modRet_link (s : State) (f : ReturnUnit → ReturnUnit) : (s.modRet f).link = s.link := rfl
@[simp] theorem State.modRet_intake (s : State) (f : ReturnUnit → ReturnUnit) : (s.modRet f).intake = s.intake := rfl
@[simp] theorem State.modRet_map (s : State) (f : ReturnUnit → ReturnUnit) : (s.modRet f).map = s.map := rfl
@[simp] theorem State.modRet_chans (s : State) (f : ReturnUnit → ReturnUnit) : (s.modRet f).chans = s.chans := rfl
@[simp] theorem State.modRet_ret (s : State) (f : ReturnUnit → ReturnUnit) : (s.modRet f).ret = f s.ret := rfl
@[simp] theorem State.modRet_mgmt (s : State) (f : ReturnUnit → ReturnUnit) : (s.modRet f).mgmt = s.mgmt := rfl
@[simp] theorem State.modRet_pending (s : State) (f : ReturnUnit → ReturnUnit) : (s.modRet f).pending = s.pending := rfl
@[simp] theorem State.modRet_chan (s : State) (f : ReturnUnit → ReturnUnit) (c : Chan) : (s.modRet f).chan c = s.chan c := rfl

/-! ### State.modMgmt -/

@[simp] theorem State.modMgmt_now (s : State) (f : Mgmt → Mgmt) : (s.modMgmt f).now = s.now := rfl
@[simp] theorem State.modMgmt_link (s : State) (f : Mgmt → Mgmt) : (s.modMgmt f).link = s.link := rfl
@[simp] theorem State.modMgmt_intake (s : State) (f : Mgmt → Mgmt) : (s.modMgmt f).intake = s.intake := rfl
@[simp] theorem State.modMgmt_map (s : State) (f : Mgmt → Mgmt) : (s.modMgmt f).map = s.map := rfl
@[simp] theorem State.modMgmt_chans (s : State) (f : Mgmt → Mgmt) : (s.modMgmt f).chans = s.chans := rfl
@[simp] theorem State.modMgmt_ret (s : State) (f : Mgmt → Mgmt) : (s.modMgmt f).ret = s.ret := rfl
@[simp] theorem State.modMgmt_mgmt (s : State) (f : Mgmt → Mgmt) : (s.modMgmt f).mgmt = f s.mgmt := rfl
@[simp] theorem State.modMgmt_pending (s : State) (f : Mgmt → Mgmt) : (s.modMgmt f).pending = s.pending := rfl
@[simp] theorem State.modMgmt_chan (s : State) (f : Mgmt → Mgmt) (c : Chan) : (s.modMgmt f).chan c = s.chan c := rfl

/-! ### State.setChan -/

@[simp] theorem State.setChan_now (s : State) (c : Chan) (x : Channel) : (s.setChan c x).now = s.now := rfl
@[simp] theorem State.setChan_link (s : State) (c : Chan) (x : Channel) : (s.setChan c x).link = s.link := rfl
@[simp] theorem State.setChan_intake (s : State) (c : Chan) (x : Channel) : (s.setChan c x).intake = s.intake := rfl
@[simp] theorem State.setChan_map (s : State) (c : Chan) (x : Channel) : (s.setChan c x).map = s.map := rfl
@[simp] theorem State.setChan_chans (s : State) (c : Chan) (x : Channel) : (s.setChan c x).chans = s.chans.set c x := rfl
@[simp] theorem State.setChan_ret (s : State) (c : Chan) (x : Channel) : (s.setChan c x).ret = s.ret := rfl
@[simp] theorem State.setChan_mgmt (s : State) (c : Chan) (x : Channel) : (s.setChan c x).mgmt = s.mgmt := rfl
@[simp] theorem State.setChan_pending (s : State) (c : Chan) (x : Channel) : (s.setChan c x).pending = s.pending := rfl

/-! ### State.modChan -/

@[simp] theorem State.modChan_now (s : State) (c : Chan) (f : Channel → Channel) : (s.modChan c f).now = s.now := rfl
@[simp] theorem State.modChan_link (s : State) (c : Chan) (f : Channel → Channel) : (s.modChan c f).link = s.link := rfl
@[simp] theorem State.modChan_intake (s : State) (c : Chan) (f : Channel → Channel) : (s.modChan c f).intake = s.intake := rfl
@[simp] theorem State.modChan_map (s : State) (c : Chan) (f : Channel → Channel) : (s.modChan c f).map = s.map := rfl
@[simp] theorem State.modChan_ret (s : State) (c : Chan) (f : Channel → Channel) : (s.modChan c f).ret = s.ret := rfl
@[simp] theorem State.modChan_mgmt (s : State) (c : Chan) (f : Channel → Channel) : (s.modChan c f).mgmt = s.mgmt := rfl
@[simp] theorem State.modChan_pending (s : State) (c : Chan) (f : Channel → Channel) : (s.modChan c f).pending = s.pending := rfl

/-! ### Channels -/

@[simp] theorem State.chan_setChan_same (s : State) (c : Chan) (x : Channel) : (s.setChan c x).chan c = x := by
  simp [State.chan, State.setChan]

theorem State.chan_setChan_ne (s : State) {c d : Chan} (x : Channel) (h : c ≠ d) :
    (s.setChan c x).chan d = s.chan d := by
  have h' : c.val ≠ d.val := fun e => h (Fin.ext e)
  simp [State.chan, State.setChan, h']

@[simp] theorem State.chan_modChan_same (s : State) (c : Chan) (f : Channel → Channel) :
    (s.modChan c f).chan c = f (s.chan c) := by
  simp [State.modChan]

theorem State.chan_modChan_ne (s : State) {c d : Chan} (f : Channel → Channel) (h : c ≠ d) :
    (s.modChan c f).chan d = s.chan d := State.chan_setChan_ne s _ h

theorem State.chan_modChan (s : State) (c d : Chan) (f : Channel → Channel) :
    (s.modChan c f).chan d = if c = d then f (s.chan d) else s.chan d := by
  by_cases h : c = d
  · subst h; simp
  · simp [h, State.chan_modChan_ne]

@[simp] theorem State.setChan_setChan (s : State) (c : Chan) (x y : Channel) :
    (s.setChan c x).setChan c y = s.setChan c y := by
  simp [State.setChan]

@[simp] theorem State.modChan_setChan (s : State) (c : Chan) (x : Channel) (f : Channel → Channel) :
    (s.setChan c x).modChan c f = s.setChan c (f x) := by
  simp [State.modChan]

/-! ### Streams -/

theorem State.stream_modStream (s : State) (i j : StreamIx) (f : StreamEntry → StreamEntry) :
    (s.modStream i f).stream j = if i = j then f (s.stream j) else s.stream j := by
  by_cases h : i = j
  · subst h; simp [State.stream, State.modStream, State.modIntake]
  · have h' : i.val ≠ j.val := fun e => h (Fin.ext e)
    simp [State.stream, State.modStream, State.modIntake, h, h']

@[simp] theorem State.modStream_now (s : State) (i : StreamIx) (f : StreamEntry → StreamEntry) : (s.modStream i f).now = s.now := rfl
@[simp] theorem State.modStream_link (s : State) (i : StreamIx) (f : StreamEntry → StreamEntry) : (s.modStream i f).link = s.link := rfl
@[simp] theorem State.modStream_map (s : State) (i : StreamIx) (f : StreamEntry → StreamEntry) : (s.modStream i f).map = s.map := rfl
@[simp] theorem State.modStream_chan (s : State) (i : StreamIx) (f : StreamEntry → StreamEntry) (c : Chan) : (s.modStream i f).chan c = s.chan c := rfl
@[simp] theorem State.modStream_chans (s : State) (i : StreamIx) (f : StreamEntry → StreamEntry) : (s.modStream i f).chans = s.chans := rfl
@[simp] theorem State.modStream_ret (s : State) (i : StreamIx) (f : StreamEntry → StreamEntry) : (s.modStream i f).ret = s.ret := rfl
@[simp] theorem State.modStream_mgmt (s : State) (i : StreamIx) (f : StreamEntry → StreamEntry) : (s.modStream i f).mgmt = s.mgmt := rfl
@[simp] theorem State.modStream_pending (s : State) (i : StreamIx) (f : StreamEntry → StreamEntry) : (s.modStream i f).pending = s.pending := rfl
@[simp] theorem State.modStream_queue (s : State) (i : StreamIx) (f : StreamEntry → StreamEntry) : (s.modStream i f).intake.queue = s.intake.queue := rfl
@[simp] theorem State.modStream_tags (s : State) (i : StreamIx) (f : StreamEntry → StreamEntry) : (s.modStream i f).intake.tags = s.intake.tags := rfl

/-! ### Tables -/

@[simp] theorem tableList_mapTable {α β : Type} {n : Nat} (f : α → β) (v : Vector α n) :
    tableList (mapTable f v) = (tableList v).map f := by
  simp [tableList, mapTable]

@[simp] theorem mapTable_get {α β : Type} {n : Nat} (f : α → β) (v : Vector α n) (i : Nat) (h : i < n) :
    (mapTable f v)[i] = f v[i] := by
  simp [mapTable, Vector.getElem_mk]

/-! ### Banks -/

theorem Channel.bank_modBank (x : Channel) (a b : BankIx) (f : Bank → Bank) :
    (x.modBank a f).bank b = if a = b then f (x.bank b) else x.bank b := by
  by_cases h : a = b
  · subst h; simp [Channel.bank, Channel.modBank]
  · have h' : a.val ≠ b.val := fun e => h (Fin.ext e)
    simp [Channel.bank, Channel.modBank, h, h']

@[simp] theorem Channel.bank_modBank_same (x : Channel) (b : BankIx) (f : Bank → Bank) :
    (x.modBank b f).bank b = f (x.bank b) := by
  simp [Channel.bank_modBank]

/-! ### Channel.modBank, Channel.count, Channel.issue -/

@[simp] theorem Channel.modBank_pool (x : Channel) (b : BankIx) (f : Bank → Bank) : (x.modBank b f).pool = x.pool := rfl
@[simp] theorem Channel.modBank_banks (x : Channel) (b : BankIx) (f : Bank → Bank) : (x.modBank b f).banks = x.banks.set b (f x.banks[b]) := rfl
@[simp] theorem Channel.modBank_columnSpacing (x : Channel) (b : BankIx) (f : Bank → Bank) : (x.modBank b f).columnSpacing = x.columnSpacing := rfl
@[simp] theorem Channel.modBank_writeBurst (x : Channel) (b : BankIx) (f : Bank → Bank) : (x.modBank b f).writeBurst = x.writeBurst := rfl
@[simp] theorem Channel.modBank_readBurst (x : Channel) (b : BankIx) (f : Bank → Bank) : (x.modBank b f).readBurst = x.readBurst := rfl
@[simp] theorem Channel.modBank_issued (x : Channel) (b : BankIx) (f : Bank → Bank) : (x.modBank b f).issued = x.issued := rfl
@[simp] theorem Channel.modBank_writeToRead (x : Channel) (b : BankIx) (f : Bank → Bank) : (x.modBank b f).writeToRead = x.writeToRead := rfl
@[simp] theorem Channel.modBank_readToWrite (x : Channel) (b : BankIx) (f : Bank → Bank) : (x.modBank b f).readToWrite = x.readToWrite := rfl
@[simp] theorem Channel.modBank_openSpacing (x : Channel) (b : BankIx) (f : Bank → Bank) : (x.modBank b f).openSpacing = x.openSpacing := rfl
@[simp] theorem Channel.modBank_window (x : Channel) (b : BankIx) (f : Bank → Bank) : (x.modBank b f).window = x.window := rfl
@[simp] theorem Channel.modBank_maint (x : Channel) (b : BankIx) (f : Bank → Bank) : (x.modBank b f).maint = x.maint := rfl
@[simp] theorem Channel.modBank_debt (x : Channel) (b : BankIx) (f : Bank → Bank) : (x.modBank b f).debt = x.debt := rfl
@[simp] theorem Channel.modBank_interval (x : Channel) (b : BankIx) (f : Bank → Bank) : (x.modBank b f).interval = x.interval := rfl
@[simp] theorem Channel.modBank_urgent (x : Channel) (b : BankIx) (f : Bank → Bank) : (x.modBank b f).urgent = x.urgent := rfl
@[simp] theorem Channel.modBank_trimInterval (x : Channel) (b : BankIx) (f : Bank → Bank) : (x.modBank b f).trimInterval = x.trimInterval := rfl
@[simp] theorem Channel.modBank_trimTimer (x : Channel) (b : BankIx) (f : Bank → Bank) : (x.modBank b f).trimTimer = x.trimTimer := rfl
@[simp] theorem Channel.modBank_shortTrimDue (x : Channel) (b : BankIx) (f : Bank → Bank) : (x.modBank b f).shortTrimDue = x.shortTrimDue := rfl
@[simp] theorem Channel.modBank_graceTimer (x : Channel) (b : BankIx) (f : Bank → Bank) : (x.modBank b f).graceTimer = x.graceTimer := rfl
@[simp] theorem Channel.modBank_graceForce (x : Channel) (b : BankIx) (f : Bank → Bank) : (x.modBank b f).graceForce = x.graceForce := rfl
@[simp] theorem Channel.modBank_longTrimRequest (x : Channel) (b : BankIx) (f : Bank → Bank) : (x.modBank b f).longTrimRequest = x.longTrimRequest := rfl
@[simp] theorem Channel.modBank_state (x : Channel) (b : BankIx) (f : Bank → Bank) : (x.modBank b f).state = x.state := rfl
@[simp] theorem Channel.modBank_settings (x : Channel) (b : BankIx) (f : Bank → Bank) : (x.modBank b f).settings = x.settings := rfl
@[simp] theorem Channel.modBank_settingsPending (x : Channel) (b : BankIx) (f : Bank → Bank) : (x.modBank b f).settingsPending = x.settingsPending := rfl
@[simp] theorem Channel.modBank_idleTimer (x : Channel) (b : BankIx) (f : Bank → Bank) : (x.modBank b f).idleTimer = x.idleTimer := rfl
@[simp] theorem Channel.modBank_dozeExit (x : Channel) (b : BankIx) (f : Bank → Bank) : (x.modBank b f).dozeExit = x.dozeExit := rfl
@[simp] theorem Channel.modBank_powerupWait (x : Channel) (b : BankIx) (f : Bank → Bank) : (x.modBank b f).powerupWait = x.powerupWait := rfl
@[simp] theorem Channel.modBank_retainExitShort (x : Channel) (b : BankIx) (f : Bank → Bank) : (x.modBank b f).retainExitShort = x.retainExitShort := rfl
@[simp] theorem Channel.modBank_retainExitLong (x : Channel) (b : BankIx) (f : Bank → Bank) : (x.modBank b f).retainExitLong = x.retainExitLong := rfl
@[simp] theorem Channel.modBank_seqStep (x : Channel) (b : BankIx) (f : Bank → Bank) : (x.modBank b f).seqStep = x.seqStep := rfl
@[simp] theorem Channel.modBank_longCmd (x : Channel) (b : BankIx) (f : Bank → Bank) : (x.modBank b f).longCmd = x.longCmd := rfl
@[simp] theorem Channel.modBank_counters (x : Channel) (b : BankIx) (f : Bank → Bank) : (x.modBank b f).counters = x.counters := rfl
@[simp] theorem Channel.modBank_dram (x : Channel) (b : BankIx) (f : Bank → Bank) : (x.modBank b f).dram = x.dram := rfl
@[simp] theorem Channel.modBank_dramGen (x : Channel) (b : BankIx) (f : Bank → Bank) : (x.modBank b f).dramGen = x.dramGen := rfl
@[simp] theorem Channel.modBank_lastCommand (x : Channel) (b : BankIx) (f : Bank → Bank) : (x.modBank b f).lastCommand = x.lastCommand := rfl

@[simp] theorem Channel.count_pool (x : Channel) (f : Counters → Counters) : (x.count f).pool = x.pool := rfl
@[simp] theorem Channel.count_banks (x : Channel) (f : Counters → Counters) : (x.count f).banks = x.banks := rfl
@[simp] theorem Channel.count_columnSpacing (x : Channel) (f : Counters → Counters) : (x.count f).columnSpacing = x.columnSpacing := rfl
@[simp] theorem Channel.count_writeBurst (x : Channel) (f : Counters → Counters) : (x.count f).writeBurst = x.writeBurst := rfl
@[simp] theorem Channel.count_readBurst (x : Channel) (f : Counters → Counters) : (x.count f).readBurst = x.readBurst := rfl
@[simp] theorem Channel.count_issued (x : Channel) (f : Counters → Counters) : (x.count f).issued = x.issued := rfl
@[simp] theorem Channel.count_writeToRead (x : Channel) (f : Counters → Counters) : (x.count f).writeToRead = x.writeToRead := rfl
@[simp] theorem Channel.count_readToWrite (x : Channel) (f : Counters → Counters) : (x.count f).readToWrite = x.readToWrite := rfl
@[simp] theorem Channel.count_openSpacing (x : Channel) (f : Counters → Counters) : (x.count f).openSpacing = x.openSpacing := rfl
@[simp] theorem Channel.count_window (x : Channel) (f : Counters → Counters) : (x.count f).window = x.window := rfl
@[simp] theorem Channel.count_maint (x : Channel) (f : Counters → Counters) : (x.count f).maint = x.maint := rfl
@[simp] theorem Channel.count_debt (x : Channel) (f : Counters → Counters) : (x.count f).debt = x.debt := rfl
@[simp] theorem Channel.count_interval (x : Channel) (f : Counters → Counters) : (x.count f).interval = x.interval := rfl
@[simp] theorem Channel.count_urgent (x : Channel) (f : Counters → Counters) : (x.count f).urgent = x.urgent := rfl
@[simp] theorem Channel.count_trimInterval (x : Channel) (f : Counters → Counters) : (x.count f).trimInterval = x.trimInterval := rfl
@[simp] theorem Channel.count_trimTimer (x : Channel) (f : Counters → Counters) : (x.count f).trimTimer = x.trimTimer := rfl
@[simp] theorem Channel.count_shortTrimDue (x : Channel) (f : Counters → Counters) : (x.count f).shortTrimDue = x.shortTrimDue := rfl
@[simp] theorem Channel.count_graceTimer (x : Channel) (f : Counters → Counters) : (x.count f).graceTimer = x.graceTimer := rfl
@[simp] theorem Channel.count_graceForce (x : Channel) (f : Counters → Counters) : (x.count f).graceForce = x.graceForce := rfl
@[simp] theorem Channel.count_longTrimRequest (x : Channel) (f : Counters → Counters) : (x.count f).longTrimRequest = x.longTrimRequest := rfl
@[simp] theorem Channel.count_state (x : Channel) (f : Counters → Counters) : (x.count f).state = x.state := rfl
@[simp] theorem Channel.count_settings (x : Channel) (f : Counters → Counters) : (x.count f).settings = x.settings := rfl
@[simp] theorem Channel.count_settingsPending (x : Channel) (f : Counters → Counters) : (x.count f).settingsPending = x.settingsPending := rfl
@[simp] theorem Channel.count_idleTimer (x : Channel) (f : Counters → Counters) : (x.count f).idleTimer = x.idleTimer := rfl
@[simp] theorem Channel.count_dozeExit (x : Channel) (f : Counters → Counters) : (x.count f).dozeExit = x.dozeExit := rfl
@[simp] theorem Channel.count_powerupWait (x : Channel) (f : Counters → Counters) : (x.count f).powerupWait = x.powerupWait := rfl
@[simp] theorem Channel.count_retainExitShort (x : Channel) (f : Counters → Counters) : (x.count f).retainExitShort = x.retainExitShort := rfl
@[simp] theorem Channel.count_retainExitLong (x : Channel) (f : Counters → Counters) : (x.count f).retainExitLong = x.retainExitLong := rfl
@[simp] theorem Channel.count_seqStep (x : Channel) (f : Counters → Counters) : (x.count f).seqStep = x.seqStep := rfl
@[simp] theorem Channel.count_longCmd (x : Channel) (f : Counters → Counters) : (x.count f).longCmd = x.longCmd := rfl
@[simp] theorem Channel.count_counters (x : Channel) (f : Counters → Counters) : (x.count f).counters = f x.counters := rfl
@[simp] theorem Channel.count_dram (x : Channel) (f : Counters → Counters) : (x.count f).dram = x.dram := rfl
@[simp] theorem Channel.count_dramGen (x : Channel) (f : Counters → Counters) : (x.count f).dramGen = x.dramGen := rfl
@[simp] theorem Channel.count_lastCommand (x : Channel) (f : Counters → Counters) : (x.count f).lastCommand = x.lastCommand := rfl
@[simp] theorem Channel.count_bank (x : Channel) (f : Counters → Counters) (b : BankIx) : (x.count f).bank b = x.bank b := rfl

@[simp] theorem Channel.issue_pool (x : Channel) (d : DramCommand) : (x.issue d).pool = x.pool := rfl
@[simp] theorem Channel.issue_banks (x : Channel) (d : DramCommand) : (x.issue d).banks = x.banks := rfl
@[simp] theorem Channel.issue_columnSpacing (x : Channel) (d : DramCommand) : (x.issue d).columnSpacing = x.columnSpacing := rfl
@[simp] theorem Channel.issue_writeBurst (x : Channel) (d : DramCommand) : (x.issue d).writeBurst = x.writeBurst := rfl
@[simp] theorem Channel.issue_readBurst (x : Channel) (d : DramCommand) : (x.issue d).readBurst = x.readBurst := rfl
@[simp] theorem Channel.issue_issued (x : Channel) (d : DramCommand) : (x.issue d).issued = x.issued := rfl
@[simp] theorem Channel.issue_writeToRead (x : Channel) (d : DramCommand) : (x.issue d).writeToRead = x.writeToRead := rfl
@[simp] theorem Channel.issue_readToWrite (x : Channel) (d : DramCommand) : (x.issue d).readToWrite = x.readToWrite := rfl
@[simp] theorem Channel.issue_openSpacing (x : Channel) (d : DramCommand) : (x.issue d).openSpacing = x.openSpacing := rfl
@[simp] theorem Channel.issue_window (x : Channel) (d : DramCommand) : (x.issue d).window = x.window := rfl
@[simp] theorem Channel.issue_maint (x : Channel) (d : DramCommand) : (x.issue d).maint = x.maint := rfl
@[simp] theorem Channel.issue_debt (x : Channel) (d : DramCommand) : (x.issue d).debt = x.debt := rfl
@[simp] theorem Channel.issue_interval (x : Channel) (d : DramCommand) : (x.issue d).interval = x.interval := rfl
@[simp] theorem Channel.issue_urgent (x : Channel) (d : DramCommand) : (x.issue d).urgent = x.urgent := rfl
@[simp] theorem Channel.issue_trimInterval (x : Channel) (d : DramCommand) : (x.issue d).trimInterval = x.trimInterval := rfl
@[simp] theorem Channel.issue_trimTimer (x : Channel) (d : DramCommand) : (x.issue d).trimTimer = x.trimTimer := rfl
@[simp] theorem Channel.issue_shortTrimDue (x : Channel) (d : DramCommand) : (x.issue d).shortTrimDue = x.shortTrimDue := rfl
@[simp] theorem Channel.issue_graceTimer (x : Channel) (d : DramCommand) : (x.issue d).graceTimer = x.graceTimer := rfl
@[simp] theorem Channel.issue_graceForce (x : Channel) (d : DramCommand) : (x.issue d).graceForce = x.graceForce := rfl
@[simp] theorem Channel.issue_longTrimRequest (x : Channel) (d : DramCommand) : (x.issue d).longTrimRequest = x.longTrimRequest := rfl
@[simp] theorem Channel.issue_state (x : Channel) (d : DramCommand) : (x.issue d).state = x.state := rfl
@[simp] theorem Channel.issue_settings (x : Channel) (d : DramCommand) : (x.issue d).settings = x.settings := rfl
@[simp] theorem Channel.issue_settingsPending (x : Channel) (d : DramCommand) : (x.issue d).settingsPending = x.settingsPending := rfl
@[simp] theorem Channel.issue_idleTimer (x : Channel) (d : DramCommand) : (x.issue d).idleTimer = x.idleTimer := rfl
@[simp] theorem Channel.issue_dozeExit (x : Channel) (d : DramCommand) : (x.issue d).dozeExit = x.dozeExit := rfl
@[simp] theorem Channel.issue_powerupWait (x : Channel) (d : DramCommand) : (x.issue d).powerupWait = x.powerupWait := rfl
@[simp] theorem Channel.issue_retainExitShort (x : Channel) (d : DramCommand) : (x.issue d).retainExitShort = x.retainExitShort := rfl
@[simp] theorem Channel.issue_retainExitLong (x : Channel) (d : DramCommand) : (x.issue d).retainExitLong = x.retainExitLong := rfl
@[simp] theorem Channel.issue_seqStep (x : Channel) (d : DramCommand) : (x.issue d).seqStep = x.seqStep := rfl
@[simp] theorem Channel.issue_longCmd (x : Channel) (d : DramCommand) : (x.issue d).longCmd = x.longCmd := rfl
@[simp] theorem Channel.issue_counters (x : Channel) (d : DramCommand) : (x.issue d).counters = x.counters := rfl
@[simp] theorem Channel.issue_dram (x : Channel) (d : DramCommand) : (x.issue d).dram = x.dram := rfl
@[simp] theorem Channel.issue_dramGen (x : Channel) (d : DramCommand) : (x.issue d).dramGen = x.dramGen := rfl
@[simp] theorem Channel.issue_lastCommand (x : Channel) (d : DramCommand) : (x.issue d).lastCommand = some d := rfl
@[simp] theorem Channel.issue_bank (x : Channel) (d : DramCommand) (b : BankIx) : (x.issue d).bank b = x.bank b := rfl

end Sys2Proof.Machine
end

