-- ==== Sys2Proof/Laws/Dram.lean ====
section
/-! SUPPORT. The DRAM contents: every operation on them keeps the canonical form, and what a word reads as after a
store. -/

namespace Sys2Proof.Laws

open Sys2Proof.Machine Sys2Proof.Safety

/-! ### One word -/

theorem dramStore_above {a k : Nat} {w : StoredWord} (h : a < k) :
    ∀ {l : List (Nat × StoredWord)}, (l.all fun p => a < p.1) = true → ((dramStore k w l).all fun p => a < p.1) = true := by
  intro l
  induction l with
  | nil => intro _; simp [dramStore, h]
  | cons p t ih =>
    obtain ⟨b, v⟩ := p
    intro hl
    simp only [List.all_cons, Bool.and_eq_true, decide_eq_true_eq] at hl
    simp only [dramStore]
    split
    · simp only [List.all_cons, Bool.and_eq_true, decide_eq_true_eq]; exact ⟨h, hl.1, hl.2⟩
    · split
      · simp only [List.all_cons, Bool.and_eq_true, decide_eq_true_eq]; exact ⟨h, hl.2⟩
      · simp only [List.all_cons, Bool.and_eq_true, decide_eq_true_eq]; exact ⟨hl.1, ih hl.2⟩

/-- A store keeps the canonical form. -/
theorem dramStore_wf (k : Nat) (w : StoredWord) :
    ∀ {l : List (Nat × StoredWord)}, dramWf l = true → dramWf (dramStore k w l) = true := by
  intro l
  induction l with
  | nil => intro _; rfl
  | cons p t ih =>
    obtain ⟨b, v⟩ := p
    intro h
    simp only [dramWf, Bool.and_eq_true] at h
    simp only [dramStore]
    split
    · rename_i hk
      simp only [dramWf, Bool.and_eq_true, List.all_cons, decide_eq_true_eq]
      refine ⟨⟨hk, ?_⟩, h⟩
      rw [List.all_eq_true] at h ⊢
      intro q hq
      have := h.1 q hq
      simp only [decide_eq_true_eq] at this ⊢
      omega
    · split
      · rename_i hk; subst hk
        simp only [dramWf, Bool.and_eq_true]; exact h
      · rename_i h1 h2
        simp only [dramWf, Bool.and_eq_true]
        exact ⟨dramStore_above (by omega) h.1, ih h.2⟩

/-- What an address holds after a store. -/
theorem dramLookup_dramStore (k : Nat) (w : StoredWord) (a : Nat) :
    ∀ l : List (Nat × StoredWord), dramLookup (dramStore k w l) a = if a = k then some w else dramLookup l a := by
  intro l
  induction l with
  | nil => simp [dramStore, dramLookup, eq_comm]
  | cons p t ih =>
    obtain ⟨b, v⟩ := p
    simp only [dramStore]
    split
    · simp [dramLookup, eq_comm]
    · split
      · rename_i h1 h2
        subst h2
        by_cases ha : a = k
        · simp [dramLookup, ha]
        · have : k ≠ a := fun e => ha e.symm
          simp [dramLookup, ha, this]
      · rename_i h1 h2
        by_cases hb : b = a
        · have : a ≠ k := fun e => h2 (by omega)
          simp [dramLookup, hb, this]
        · simp only [dramLookup, hb, if_false, ih]

/-- A word address names one word of its line. -/
theorem wordAddress_injective (b : BankIx) (row col : Nat) {i j : WordIx}
    (h : wordAddress b row col i = wordAddress b row col j) : i = j := by
  unfold wordAddress at h
  exact Fin.ext (by omega)

/-! ### A channel's operations on its DRAM -/

theorem storeWord_wf {x : Channel} (k : Nat) (w : StoredWord) (h : dramWf x.dram = true) :
    dramWf (x.storeWord k w).dram = true := dramStore_wf k w h

theorem storeLine_wf {x : Channel} (b : BankIx) (row col : Nat) (data : Line) (enable : BitVec 8)
    (h : dramWf x.dram = true) : dramWf (x.storeLine b row col data enable).dram = true := by
  have gen : ∀ (l : List WordIx) (x : Channel), dramWf x.dram = true →
      dramWf (l.foldl (storeEnabled b row col data enable) x).dram = true := by
    intro l
    induction l with
    | nil => intro x h; exact h
    | cons i t ih =>
      intro x h
      refine ih _ ?_
      unfold storeEnabled
      split
      · exact storeWord_wf _ _ h
      · exact h
  exact gen wordIxs x h

theorem applyChanges_wf {x : Channel} (c : Chan) (b : BankIx) (row col : Nat) (cs : List CellChange)
    (h : dramWf x.dram = true) : dramWf (x.applyChanges c b row col cs).dram = true := by
  unfold Channel.applyChanges
  induction cs generalizing x with
  | nil => exact h
  | cons a t ih => exact ih (storeWord_wf _ _ h)

theorem loseContents_wf (x : Channel) : dramWf x.loseContents.dram = true := rfl

theorem channelAtReset_wf (gen : Nat) : dramWf (channelAtReset gen).dram = true := rfl

theorem issueRead_wf {x : Channel} (c : Chan) (now : Nat) (e : PoolEntry) (slot : SlotIx) (cs : List CellChange)
    (h : dramWf x.dram = true) : dramWf (x.issueRead c now e slot cs).dram = true :=
  applyChanges_wf c e.bank e.row e.col cs h

theorem issueWrite_wf {x : Channel} (now : Nat) (e : PoolEntry) (data : Line) (enable : BitVec 8)
    (h : dramWf x.dram = true) : dramWf (x.issueWrite now e data enable).dram = true :=
  storeLine_wf e.bank e.row e.col data enable h

/-- A read changes nothing of its channel but the DRAM contents, by what the read finds changed. -/
theorem applyChanges_frame (x : Channel) (c : Chan) (b : BankIx) (row col : Nat) (cs : List CellChange) :
    x.applyChanges c b row col cs = { x with dram := (x.applyChanges c b row col cs).dram } := by
  have gen : ∀ (cs : List CellChange) (y : Channel), (∃ d, y = { x with dram := d }) →
      ∃ d, cs.foldl (applyChange c b row col) y = { x with dram := d } := by
    intro cs
    induction cs with
    | nil => intro y h; exact h
    | cons a t ih =>
      rintro y ⟨d, rfl⟩
      exact ih _ ⟨_, rfl⟩
  obtain ⟨d, h⟩ := gen cs x ⟨x.dram, rfl⟩
  unfold Channel.applyChanges
  rw [h]

/-- A write changes nothing of its channel but the DRAM contents. -/
theorem storeLine_frame (x : Channel) (b : BankIx) (row col : Nat) (data : Line) (enable : BitVec 8) :
    x.storeLine b row col data enable = { x with dram := (x.storeLine b row col data enable).dram } := by
  have gen : ∀ (l : List WordIx) (y : Channel), (∃ d, y = { x with dram := d }) →
      ∃ d, l.foldl (storeEnabled b row col data enable) y = { x with dram := d } := by
    intro l
    induction l with
    | nil => intro y h; exact h
    | cons a t ih =>
      rintro y ⟨d, rfl⟩
      refine ih _ ?_
      unfold storeEnabled
      split
      · exact ⟨_, rfl⟩
      · exact ⟨_, rfl⟩
  obtain ⟨d, h⟩ := gen wordIxs x ⟨x.dram, rfl⟩
  unfold Channel.storeLine
  rw [h]

/-! ### What the words read as after a write, and after the changes that a read finds -/

/-- One enabled word of a write. -/
theorem dramLookup_storeEnabled (b : BankIx) (row col : Nat) (data : Line) (enable : BitVec 8) (x : Channel) (i : WordIx)
    (a : Nat) : dramLookup (storeEnabled b row col data enable x i).dram a =
      if enable.getLsbD i = true ∧ a = wordAddress b row col i then some ⟨data[i], data[i], 0⟩ else dramLookup x.dram a := by
  unfold storeEnabled
  by_cases h : enable.getLsbD i = true
  · rw [if_pos h, Channel.storeWord, dramLookup_dramStore]
    simp only [h, true_and]
  · rw [if_neg h, if_neg fun h' => h h'.1]

theorem storeLine_words (b : BankIx) (row col : Nat) (data : Line) (enable : BitVec 8) : ∀ (l : List WordIx) (x : Channel),
    l.Nodup →
    (∀ w ∈ l, enable.getLsbD w = true →
      dramLookup (l.foldl (storeEnabled b row col data enable) x).dram (wordAddress b row col w) =
        some ⟨data[w], data[w], 0⟩) ∧
    ∀ a, (∀ w ∈ l, enable.getLsbD w = true → a ≠ wordAddress b row col w) →
      dramLookup (l.foldl (storeEnabled b row col data enable) x).dram a = dramLookup x.dram a := by
  intro l
  induction l with
  | nil => intro x _; exact ⟨fun w h => absurd h List.not_mem_nil, fun _ _ => rfl⟩
  | cons i t ih =>
    intro x hn
    obtain ⟨h1, h2⟩ := ih (storeEnabled b row col data enable x i) (List.nodup_cons.mp hn).2
    simp only [List.foldl_cons]
    refine ⟨fun w hw he => ?_, fun a ha => ?_⟩
    · by_cases hwt : w ∈ t
      · exact h1 w hwt he
      · have hwi : w = i := (List.mem_cons.mp hw).resolve_right hwt
        subst hwi
        rw [h2 _ fun v hv _ e => hwt (by rwa [wordAddress_injective b row col e]), dramLookup_storeEnabled, if_pos ⟨he, rfl⟩]
    · rw [h2 a fun w hw => ha w (List.mem_cons_of_mem _ hw), dramLookup_storeEnabled,
        if_neg fun h => ha i List.mem_cons_self h.1 h.2]

theorem mem_wordIxs : ∀ w : WordIx, w ∈ wordIxs := by decide

/-- An enabled word of a write stands in the DRAM with a new check code (R69). -/
theorem dramLookup_storeLine (x : Channel) (b : BankIx) (row col : Nat) (data : Line) {enable : BitVec 8} {w : WordIx}
    (h : enable.getLsbD w = true) :
    dramLookup (x.storeLine b row col data enable).dram (wordAddress b row col w) = some ⟨data[w], data[w], 0⟩ :=
  (storeLine_words b row col data enable wordIxs x (by decide)).1 w (mem_wordIxs w) h

/-- A write leaves every word that it does not enable (R69). -/
theorem dramLookup_storeLine_other (x : Channel) (b : BankIx) (row col : Nat) (data : Line) {enable : BitVec 8} {a : Nat}
    (h : ∀ w : WordIx, enable.getLsbD w = true → a ≠ wordAddress b row col w) :
    dramLookup (x.storeLine b row col data enable).dram a = dramLookup x.dram a :=
  (storeLine_words b row col data enable wordIxs x (by decide)).2 a fun w _ => h w

/-- One change that a read finds. -/
theorem dramLookup_applyChange (c : Chan) (b : BankIx) (row col : Nat) (x : Channel) (ch : CellChange) (a : Nat) :
    dramLookup (applyChange c b row col x ch).dram a = if a = wordAddress b row col ch.word then
      some ⟨ch.data, (x.storedWord c a).codeOf, ch.codeFlips⟩ else dramLookup x.dram a := by
  unfold applyChange
  rw [Channel.storeWord, dramLookup_dramStore]
  by_cases h : a = wordAddress b row col ch.word
  · rw [if_pos h, if_pos h, h]
  · rw [if_neg h, if_neg h]

/-- A change of a word keeps every word's check code. -/
theorem applyChange_codeOf (c : Chan) (b : BankIx) (row col : Nat) (x : Channel) (ch : CellChange) (a : Nat) :
    ((applyChange c b row col x ch).storedWord c a).codeOf = (x.storedWord c a).codeOf := by
  have h : (applyChange c b row col x ch).dramGen = x.dramGen := rfl
  unfold Channel.storedWord
  rw [dramLookup_applyChange, h]
  split
  · rfl
  · rfl

/-- The changes that a read finds leave every other word. -/
theorem dramLookup_applyChanges_other {c : Chan} {b : BankIx} {row col : Nat} {a : Nat} : ∀ {cs : List CellChange}
    {x : Channel}, (∀ ch ∈ cs, a ≠ wordAddress b row col ch.word) →
    dramLookup (x.applyChanges c b row col cs).dram a = dramLookup x.dram a := by
  intro cs
  unfold Channel.applyChanges
  induction cs with
  | nil => intro x _; rfl
  | cons ch t ih =>
    intro x h
    rw [List.foldl_cons, ih fun o ho => h o (List.mem_cons_of_mem _ ho), dramLookup_applyChange,
      if_neg (h ch List.mem_cons_self)]

theorem applyChanges_codeOf {c : Chan} {b : BankIx} {row col : Nat} {a : Nat} : ∀ {cs : List CellChange} {x : Channel},
    ((x.applyChanges c b row col cs).storedWord c a).codeOf = (x.storedWord c a).codeOf := by
  intro cs
  unfold Channel.applyChanges
  induction cs with
  | nil => intro x; rfl
  | cons ch t ih => intro x; rw [List.foldl_cons, ih, applyChange_codeOf]

/-- The last change of a word stands in the DRAM, with the check code that stood there (R139). -/
theorem dramLookup_applyChanges {c : Chan} {b : BankIx} {row col : Nat} (x : Channel) {older newer : List CellChange}
    {ch : CellChange} (h : ∀ o ∈ newer, o.word ≠ ch.word) :
    dramLookup (x.applyChanges c b row col (older ++ ch :: newer)).dram (wordAddress b row col ch.word) =
      some ⟨ch.data, (x.storedWord c (wordAddress b row col ch.word)).codeOf, ch.codeFlips⟩ := by
  have e : x.applyChanges c b row col (older ++ ch :: newer) =
      (applyChange c b row col (x.applyChanges c b row col older) ch).applyChanges c b row col newer := by
    simp [Channel.applyChanges]
  rw [e, dramLookup_applyChanges_other fun o ho he => h o ho (wordAddress_injective b row col he).symm,
    dramLookup_applyChange, if_pos rfl, applyChanges_codeOf]

/-- A word of the line that a read reads. -/
theorem storedLine_word (x : Channel) (c : Chan) (b : BankIx) (row col : Nat) (w : WordIx) :
    (x.storedLine c b row col)[w] = x.storedWord c (wordAddress b row col w) := by
  unfold Channel.storedLine
  fin_cases w <;> rfl

/-! ### What a column command does to its pool and its bank -/

/-- The pool after a column command, as the statements say it. -/
theorem poolAfter_eq_passedOver (pool : List PoolEntry) (i : Nat) (e : PoolEntry) :
    poolAfter pool i e = passedOver pool i e := by
  have h : (fun o : PoolEntry => if o.bank = e.bank then o.passOver else o) = fun o => if o.bank = e.bank then
      { o with bypass := min 8 (o.bypass + 1), starved := o.starved || decide (8 ≤ o.bypass + 1) } else o := by
    funext o
    by_cases hb : o.bank = e.bank
    · rw [if_pos hb, if_pos hb, PoolEntry.passOver, Config.starveAt]
      by_cases h : o.bypass < 8
      · rw [if_pos h, Nat.min_eq_right (by omega)]
        congr 2
        rw [Bool.eq_iff_iff, beq_iff_eq, decide_eq_true_eq]
        omega
      · rw [if_neg h, Nat.min_eq_left (by omega), decide_eq_true (by omega)]
        rfl
    · rw [if_neg hb, if_neg hb]
  rw [poolAfter, passedOver, h]

/-- A channel after a column command for `e`: the pool, column spacing, the hits counter, and the bank's row_hold. -/
theorem issueColumn_eq {x : Channel} (now i : Nat) {e : PoolEntry} (hopen : (x.bank e.bank).isOpen = true) :
    x.issueColumn now i e = { x with
      pool := passedOver x.pool i e
      banks := x.banks.set e.bank { x.bank e.bank with
        columnSinceOpen := true
        rowHold := if (∃ o ∈ passedOver x.pool i e, o.bank = e.bank) ∨ (x.bank e.bank).rowHold.isRunning
          then (x.bank e.bank).rowHold else .running now (now + x.settings.rowHold) }
      columnSpacing := .running now (now + x.settings.burstTime)
      counters := { x.counters with
        hits := if (x.bank e.bank).columnSinceOpen then bump x.counters.hits else x.counters.hits } } := by
  unfold Channel.issueColumn Channel.startRowHold
  rw [poolAfter_eq_passedOver]
  dsimp only
  generalize hz : (({ x with pool := passedOver x.pool i e
                             columnSpacing := Timer.start now x.settings.burstTime }.modBank e.bank
      fun k => { k with columnSinceOpen := true }).count
      fun k => { k with hits := if (x.bank e.bank).columnSinceOpen then bump k.hits else k.hits }) = z
  have hb : z.bank e.bank = { x.bank e.bank with columnSinceOpen := true } := by
    rw [← hz, Channel.count_bank, Channel.bank_modBank_same]; rfl
  have hl : (z.bankList e.bank).isEmpty = true ↔ ¬∃ o ∈ passedOver x.pool i e, o.bank = e.bank := by
    rw [← hz]; simp [Channel.bankList]
  have ho : (z.bank e.bank).isOpen = true := by rw [hb]; exact hopen
  have hr : (z.bank e.bank).rowHold = (x.bank e.bank).rowHold := by rw [hb]
  simp only [ho, Bool.true_and, Bool.and_eq_true, Bool.not_eq_true', hl, hr]
  by_cases g : (∃ o ∈ passedOver x.pool i e, o.bank = e.bank) ∨ (x.bank e.bank).rowHold.isRunning = true
  · rw [if_pos g, if_neg (by rcases g with g | g <;> simp [g]), ← hz]
    rfl
  · rw [if_neg g, if_pos (by simpa using g), ← hz]
    simp [Channel.modBank, Channel.count, Channel.bank, Timer.start]

end Sys2Proof.Laws
end

