-- ==== Sys2Proof/Laws/Ops.lean ====
section
/-! SUPPORT. What the shared operations do, once each: the taking of the head of the ingress queue, the answers, the
notices and faults, the end of a long command, the retirement of a request, the settling of a channel, a change of the
band, and a recomputation of the trim intervals. -/

namespace Sys2Proof.Laws

open Sys2Proof.Machine Sys2Proof.Safety

/-! ### The head of the ingress queue -/

theorem takeHead_eq_taken {s : State} {q : QueuedPacket} {rest : List QueuedPacket}
    (h : s.intake.queue = q :: rest) : s.takeHead = taken s rest := by
  simp [State.takeHead, taken, State.modIntake, State.modLink, h]

theorem serveHead_of_head {s : State} {q : QueuedPacket} {rest : List QueuedPacket} {r : Request} {row : Instr}
    (h : HeadIs s q rest r) (hr : headRow r = row) (f : QueuedPacket → Request → State) :
    s.serveHead row f = f q r := by
  obtain ⟨h1, h2⟩ := h
  simp [State.serveHead, h1, h2, hr]

theorem serveHead_of_empty {s : State} (h : s.intake.queue = []) (row : Instr) (f : QueuedPacket → Request → State) :
    s.serveHead row f = s := by
  simp [State.serveHead, h]

theorem serveHead_of_other {s : State} {q : QueuedPacket} {rest : List QueuedPacket} {r : Request} {row : Instr}
    (h : HeadIs s q rest r) (hr : headRow r ≠ row) (f : QueuedPacket → Request → State) :
    s.serveHead row f = s := by
  obtain ⟨h1, h2⟩ := h
  simp [State.serveHead, h1, h2, hr]

/-- Everything that serving the head can do. -/
theorem serveHead_cases (s : State) (row : Instr) (f : QueuedPacket → Request → State) :
    s.serveHead row f = s ∨
      ∃ q rest, HeadIs s q rest (requestOf q.packet) ∧ headRow (requestOf q.packet) = row ∧
        s.serveHead row f = f q (requestOf q.packet) := by
  unfold State.serveHead
  cases hq : s.intake.queue with
  | nil => exact Or.inl rfl
  | cons q rest =>
    by_cases hr : headRow (requestOf q.packet) = row
    · exact Or.inr ⟨q, rest, ⟨hq, rfl⟩, hr, by simp [hr]⟩
    · exact Or.inl (by simp [hr])

theorem serveManaged_of_manager {s : State} {q : QueuedPacket} {rest : List QueuedPacket} {r : Request} {row : Instr}
    (h : ManagerHead s q rest r) (hr : headRow r = row) (act : QueuedPacket → Request → State → State) :
    s.serveManaged row act = act q r (taken s rest) := by
  unfold State.serveManaged
  rw [serveHead_of_head h.1 hr, if_pos h.2, takeHead_eq_taken h.1.1]

theorem serveManaged_of_other {s : State} {q : QueuedPacket} {rest : List QueuedPacket} {r : Request} {row : Instr}
    (h : HeadIs s q rest r) (hm : (s.stream q.packet.stream).manager = false) (hr : headRow r = row)
    (act : QueuedPacket → Request → State → State) :
    s.serveManaged row act = answered s q rest (.errorResp .denied) := by
  unfold State.serveManaged
  rw [serveHead_of_head h hr, if_neg (by simp [hm]), takeHead_eq_taken h.1]
  rfl

theorem serveWrite_of_refused {s : State} {q : QueuedPacket} {rest : List QueuedPacket} {a : MgmtAddr} {v : Word32}
    {row : Instr} {code : MgmtCode}
    {judge : QueuedPacket → MgmtAddr → Word32 → State → MgmtCode} {carry : QueuedPacket → MgmtAddr → Word32 → State → State}
    (h : ManagerHead s q rest (.mgmtWrite a v)) (hr : writeRow a = row) (hj : judge q a v (taken s rest) = code)
    (hc : code ≠ .ok) : s.serveWrite row judge carry = answered s q rest (.mgmtResp code none) := by
  unfold State.serveWrite
  rw [serveManaged_of_manager h hr]
  simp [hj, hc, State.answerCode, State.answer, State.handOver, State.modRet, answered, responded]

theorem serveWrite_of_ok {s : State} {q : QueuedPacket} {rest : List QueuedPacket} {a : MgmtAddr} {v : Word32}
    {row : Instr}
    {judge : QueuedPacket → MgmtAddr → Word32 → State → MgmtCode} {carry : QueuedPacket → MgmtAddr → Word32 → State → State}
    (h : ManagerHead s q rest (.mgmtWrite a v)) (hr : writeRow a = row) (hj : judge q a v (taken s rest) = .ok) :
    s.serveWrite row judge carry = responded (carry q a v (taken s rest)) q (.mgmtResp .ok none) := by
  unfold State.serveWrite
  rw [serveManaged_of_manager h hr]
  simp [hj, State.answerCode, State.answer, State.handOver, State.modRet, responded]

theorem serveCommand_of_manager {s : State} {q : QueuedPacket} {rest : List QueuedPacket} {n ch : Nat}
    {arg : Option Word32} {row : Instr} (h : ManagerHead s q rest (.mgmtCommand n ch arg)) (hr : commandRow n = row)
    (act : QueuedPacket → Nat → Option Word32 → State → State) :
    s.serveCommand row act = act q ch arg (taken s rest) := by
  unfold State.serveCommand
  rw [serveManaged_of_manager h hr]

theorem answerCode_taken (s : State) (q : QueuedPacket) (rest : List QueuedPacket) (code : MgmtCode) :
    (taken s rest).answerCode q code = answered s q rest (.mgmtResp code none) := rfl

theorem answerError_taken (s : State) (q : QueuedPacket) (rest : List QueuedPacket) (code : ErrCode) :
    (taken s rest).answerError q code = answered s q rest (.errorResp code) := rfl

theorem answer_taken (s : State) (q : QueuedPacket) (rest : List QueuedPacket) (body : RespBody) :
    (taken s rest).answer q body = answered s q rest body := rfl

@[simp] theorem taken_chan (s : State) (rest : List QueuedPacket) (c : Chan) : (taken s rest).chan c = s.chan c := rfl
@[simp] theorem taken_chans (s : State) (rest : List QueuedPacket) : (taken s rest).chans = s.chans := rfl
@[simp] theorem taken_stream (s : State) (rest : List QueuedPacket) (i : StreamIx) :
    (taken s rest).stream i = s.stream i := rfl
@[simp] theorem taken_map (s : State) (rest : List QueuedPacket) : (taken s rest).map = s.map := rfl
@[simp] theorem taken_mgmt (s : State) (rest : List QueuedPacket) : (taken s rest).mgmt = s.mgmt := rfl
@[simp] theorem taken_ret (s : State) (rest : List QueuedPacket) : (taken s rest).ret = s.ret := rfl
@[simp] theorem taken_now (s : State) (rest : List QueuedPacket) : (taken s rest).now = s.now := rfl
@[simp] theorem taken_tags (s : State) (rest : List QueuedPacket) : (taken s rest).intake.tags = s.intake.tags := rfl
@[simp] theorem taken_pending (s : State) (rest : List QueuedPacket) : (taken s rest).pending = s.pending := rfl

@[simp] theorem responded_now (s : State) (q : QueuedPacket) (b : RespBody) : (responded s q b).now = s.now := rfl
@[simp] theorem responded_link (s : State) (q : QueuedPacket) (b : RespBody) : (responded s q b).link = s.link := rfl
@[simp] theorem responded_intake (s : State) (q : QueuedPacket) (b : RespBody) : (responded s q b).intake = s.intake := rfl
@[simp] theorem responded_map (s : State) (q : QueuedPacket) (b : RespBody) : (responded s q b).map = s.map := rfl
@[simp] theorem responded_chans (s : State) (q : QueuedPacket) (b : RespBody) : (responded s q b).chans = s.chans := rfl
@[simp] theorem responded_mgmt (s : State) (q : QueuedPacket) (b : RespBody) : (responded s q b).mgmt = s.mgmt := rfl
@[simp] theorem responded_pending (s : State) (q : QueuedPacket) (b : RespBody) :
    (responded s q b).pending = s.pending := rfl
@[simp] theorem responded_chan (s : State) (q : QueuedPacket) (b : RespBody) (c : Chan) :
    (responded s q b).chan c = s.chan c := rfl
@[simp] theorem responded_ret (s : State) (q : QueuedPacket) (b : RespBody) : (responded s q b).ret =
    { s.ret with queue := s.ret.queue ++ [⟨q.packet.stream, q.packet.tag, q.order, b, false⟩] } := rfl

theorem chanOf_val : ∀ c : Chan, chanOf c.val = some c := by decide

/-- A channel command on an existing channel that passes its judgment is accepted. -/
theorem channelCommand_of_ok {s : State} {q : QueuedPacket} {c : Chan} {command : LongCommand}
    {accept : Chan → State → State} (hj : (s.chan c).judgeCommand command = .ok) :
    s.channelCommand q c.val command accept = accept c s := by
  simp [State.channelCommand, chanOf_val, hj]

/-- A channel command that fails its judgment is answered with the code and changes nothing else. -/
theorem channelCommand_of_refused {s : State} {q : QueuedPacket} {c : Chan} {command : LongCommand} {code : MgmtCode}
    {accept : Chan → State → State} (hj : (s.chan c).judgeCommand command = code) (hc : code ≠ .ok) :
    s.channelCommand q c.val command accept = s.answerCode q code := by
  simp only [State.channelCommand, chanOf_val, hj]

/-! ### Notices, faults, epochs -/

@[simp] theorem raiseFault_notices (s : State) (n : Notice) : (s.raiseFault n).mgmt.notices = s.mgmt.notices := rfl
@[simp] theorem raiseFault_settings (s : State) (n : Notice) : (s.raiseFault n).mgmt.settings = s.mgmt.settings := rfl
@[simp] theorem raiseFault_ret (s : State) (n : Notice) : (s.raiseFault n).ret = s.ret := rfl

/-- What a raised notice can change: the notice set, and the wait count when the set was empty. -/
theorem raiseNotice_frame (s : State) (n : Notice) :
    (s.raiseNotice n).now = s.now ∧ (s.raiseNotice n).link = s.link ∧ (s.raiseNotice n).intake = s.intake ∧
    (s.raiseNotice n).map = s.map ∧ (s.raiseNotice n).chans = s.chans ∧ (s.raiseNotice n).pending = s.pending ∧
    (s.raiseNotice n).ret.slots = s.ret.slots ∧ (s.raiseNotice n).ret.queue = s.ret.queue ∧
    (s.raiseNotice n).ret.nextToSend = s.ret.nextToSend ∧ (s.raiseNotice n).mgmt.settings = s.mgmt.settings ∧
    (s.raiseNotice n).mgmt.temp = s.mgmt.temp ∧ (s.raiseNotice n).mgmt.fault = s.mgmt.fault := by
  unfold State.raiseNotice
  split
  · split <;> simp
  · simp

@[simp] theorem raiseNotice_now (s : State) (n : Notice) : (s.raiseNotice n).now = s.now := (raiseNotice_frame s n).1
@[simp] theorem raiseNotice_link (s : State) (n : Notice) : (s.raiseNotice n).link = s.link := (raiseNotice_frame s n).2.1
@[simp] theorem raiseNotice_intake (s : State) (n : Notice) : (s.raiseNotice n).intake = s.intake :=
  (raiseNotice_frame s n).2.2.1
@[simp] theorem raiseNotice_map (s : State) (n : Notice) : (s.raiseNotice n).map = s.map := (raiseNotice_frame s n).2.2.2.1
@[simp] theorem raiseNotice_chans (s : State) (n : Notice) : (s.raiseNotice n).chans = s.chans :=
  (raiseNotice_frame s n).2.2.2.2.1
@[simp] theorem raiseNotice_pending (s : State) (n : Notice) : (s.raiseNotice n).pending = s.pending :=
  (raiseNotice_frame s n).2.2.2.2.2.1
@[simp] theorem raiseNotice_slots (s : State) (n : Notice) : (s.raiseNotice n).ret.slots = s.ret.slots :=
  (raiseNotice_frame s n).2.2.2.2.2.2.1
@[simp] theorem raiseNotice_queue (s : State) (n : Notice) : (s.raiseNotice n).ret.queue = s.ret.queue :=
  (raiseNotice_frame s n).2.2.2.2.2.2.2.1
@[simp] theorem raiseNotice_nextToSend (s : State) (n : Notice) : (s.raiseNotice n).ret.nextToSend = s.ret.nextToSend :=
  (raiseNotice_frame s n).2.2.2.2.2.2.2.2.1
@[simp] theorem raiseNotice_settings (s : State) (n : Notice) : (s.raiseNotice n).mgmt.settings = s.mgmt.settings :=
  (raiseNotice_frame s n).2.2.2.2.2.2.2.2.2.1
@[simp] theorem raiseNotice_temp (s : State) (n : Notice) : (s.raiseNotice n).mgmt.temp = s.mgmt.temp :=
  (raiseNotice_frame s n).2.2.2.2.2.2.2.2.2.2.1
@[simp] theorem raiseNotice_fault (s : State) (n : Notice) : (s.raiseNotice n).mgmt.fault = s.mgmt.fault :=
  (raiseNotice_frame s n).2.2.2.2.2.2.2.2.2.2.2
@[simp] theorem raiseNotice_chan (s : State) (n : Notice) (c : Chan) : (s.raiseNotice n).chan c = s.chan c := by
  simp [State.chan]
@[simp] theorem raiseNotice_stream (s : State) (n : Notice) (i : StreamIx) : (s.raiseNotice n).stream i = s.stream i := by
  simp [State.stream]

theorem raiseNotice_setChan (s : State) (n : Notice) (c : Chan) (x : Channel) :
    (s.raiseNotice n).setChan c x = (s.setChan c x).raiseNotice n := by
  unfold State.raiseNotice
  simp only [State.setChan_mgmt]
  by_cases h : (noticeEnabled s.mgmt.settings.noticeEnable n.kind && !s.mgmt.notices.any n.samePair) = true
  · simp only [h, if_true]
    by_cases h' : s.mgmt.notices.isEmpty = true
    · simp only [h', if_true]; rfl
    · simp only [h']; rfl
  · simp only [h]; rfl

theorem raiseBoth_setChan (s : State) (n : Notice) (c : Chan) (x : Channel) :
    (s.raiseBoth n).setChan c x = (s.setChan c x).raiseBoth n := raiseNotice_setChan (s.raiseFault n) n c x

@[simp] theorem raiseBoth_chan (s : State) (n : Notice) (c : Chan) : (s.raiseBoth n).chan c = s.chan c := by
  rw [State.raiseBoth, raiseNotice_chan]; rfl

/-- A kind that is not enabled raises nothing. -/
theorem raiseNotice_of_disabled {s : State} {n : Notice}
    (h : noticeEnabled s.mgmt.settings.noticeEnable n.kind = false) : s.raiseNotice n = s := by
  simp [State.raiseNotice, h]

/-- The members of a list with a notice put at its place. -/
theorem mem_insertNotice (n m : Notice) (l : List Notice) : m ∈ insertNotice n l ↔ m = n ∨ m ∈ l := by
  induction l with
  | nil => simp [insertNotice]
  | cons k t ih =>
    simp only [insertNotice]
    split
    · simp
    · simp [ih]; tauto

/-- The notice set after a raised notice. -/
theorem mem_raiseNotice (s : State) (n m : Notice) :
    m ∈ (s.raiseNotice n).mgmt.notices ↔
      m ∈ s.mgmt.notices ∨
        (m = n ∧ noticeEnabled s.mgmt.settings.noticeEnable n.kind = true ∧ s.mgmt.notices.any n.samePair = false) := by
  unfold State.raiseNotice
  split
  · rename_i h
    simp only [Bool.and_eq_true, Bool.not_eq_true'] at h
    split <;> simp [mem_insertNotice, h] <;> tauto
  · rename_i h
    simp only [Bool.and_eq_true, Bool.not_eq_true', not_and] at h
    constructor
    · exact Or.inl
    · rintro (hm | ⟨-, h1, h2⟩)
      · exact hm
      · exact absurd h2 (h h1)

/-- A retiring request changes its epoch's count, and the notice set when the previous epoch drains. -/
theorem retire_frame (s : State) (e : Epoch) :
    (s.retire e).now = s.now ∧ (s.retire e).link = s.link ∧ (s.retire e).intake = s.intake ∧
    (s.retire e).chans = s.chans ∧ (s.retire e).pending = s.pending ∧ (s.retire e).ret.slots = s.ret.slots ∧
    (s.retire e).ret.queue = s.ret.queue ∧ (s.retire e).ret.nextToSend = s.ret.nextToSend ∧
    (s.retire e).mgmt.settings = s.mgmt.settings ∧ (s.retire e).mgmt.temp = s.mgmt.temp ∧
    (s.retire e).mgmt.fault = s.mgmt.fault ∧ (s.retire e).map.epoch = s.map.epoch ∧
    (s.retire e).map.liveRegions = s.map.liveRegions ∧ (s.retire e).map.liveLayouts = s.map.liveLayouts ∧
    (s.retire e).map.shadowRegions = s.map.shadowRegions ∧ (s.retire e).map.shadowLayouts = s.map.shadowLayouts := by
  unfold State.retire
  split
  · simp
  · dsimp only
    split <;> simp [State.raiseDrained]

@[simp] theorem retire_now (s : State) (e : Epoch) : (s.retire e).now = s.now := (retire_frame s e).1
@[simp] theorem retire_link (s : State) (e : Epoch) : (s.retire e).link = s.link := (retire_frame s e).2.1
@[simp] theorem retire_intake (s : State) (e : Epoch) : (s.retire e).intake = s.intake := (retire_frame s e).2.2.1
@[simp] theorem retire_chans (s : State) (e : Epoch) : (s.retire e).chans = s.chans := (retire_frame s e).2.2.2.1
@[simp] theorem retire_chan (s : State) (e : Epoch) (c : Chan) : (s.retire e).chan c = s.chan c := by simp [State.chan]
@[simp] theorem retire_stream (s : State) (e : Epoch) (i : StreamIx) : (s.retire e).stream i = s.stream i := by
  simp [State.stream]
@[simp] theorem retire_pending (s : State) (e : Epoch) : (s.retire e).pending = s.pending := (retire_frame s e).2.2.2.2.1
@[simp] theorem retire_slots (s : State) (e : Epoch) : (s.retire e).ret.slots = s.ret.slots :=
  (retire_frame s e).2.2.2.2.2.1
@[simp] theorem retire_queue (s : State) (e : Epoch) : (s.retire e).ret.queue = s.ret.queue :=
  (retire_frame s e).2.2.2.2.2.2.1
@[simp] theorem retire_nextToSend (s : State) (e : Epoch) : (s.retire e).ret.nextToSend = s.ret.nextToSend :=
  (retire_frame s e).2.2.2.2.2.2.2.1
@[simp] theorem retire_settings (s : State) (e : Epoch) : (s.retire e).mgmt.settings = s.mgmt.settings :=
  (retire_frame s e).2.2.2.2.2.2.2.2.1
@[simp] theorem retire_temp (s : State) (e : Epoch) : (s.retire e).mgmt.temp = s.mgmt.temp :=
  (retire_frame s e).2.2.2.2.2.2.2.2.2.1
@[simp] theorem retire_fault (s : State) (e : Epoch) : (s.retire e).mgmt.fault = s.mgmt.fault :=
  (retire_frame s e).2.2.2.2.2.2.2.2.2.2.1

/-! ### Long commands, and the settling of a channel -/

/-- What a raised notice makes of the Management Unit and of the wait count depends on those two alone. -/
theorem raiseNotice_congr {s u : State} (n : Notice) (hm : u.mgmt = s.mgmt) :
    (u.raiseNotice n).mgmt = (s.raiseNotice n).mgmt ∧
    (u.ret.noticeWait = s.ret.noticeWait → (u.raiseNotice n).ret.noticeWait = (s.raiseNotice n).ret.noticeWait) := by
  unfold State.raiseNotice
  rw [hm]
  split
  · split <;> simp_all [State.modRet, State.modMgmt]
  · exact ⟨hm, id⟩

/-- What a retirement makes of them depends on the map as well. -/
theorem retire_congr {s u : State} (e : Epoch) (hm : u.mgmt = s.mgmt) (hp : u.map = s.map) :
    (u.retire e).mgmt = (s.retire e).mgmt ∧
    (u.ret.noticeWait = s.ret.noticeWait → (u.retire e).ret.noticeWait = (s.retire e).ret.noticeWait) := by
  unfold State.retire
  rw [hp]
  split
  · exact ⟨hm, id⟩
  · dsimp only
    split
    · unfold State.raiseDrained
      rw [show ∀ k, (u.modMap k).map = (s.modMap k).map from fun k => by simp [State.modMap, hp]]
      exact raiseNotice_congr _ hm
    · exact ⟨hm, id⟩

/-- The end of a long command changes its channel's record and the response queue, nothing else. -/
theorem endLong_frame (s : State) (c : Chan) (code : MgmtCode) :
    (s.endLong c code).now = s.now ∧ (s.endLong c code).link = s.link ∧ (s.endLong c code).intake = s.intake ∧
    (s.endLong c code).map = s.map ∧ (s.endLong c code).mgmt = s.mgmt ∧ (s.endLong c code).pending = s.pending ∧
    (s.endLong c code).ret.slots = s.ret.slots ∧ (s.endLong c code).ret.nextToSend = s.ret.nextToSend ∧
    (s.endLong c code).ret.noticeWait = s.ret.noticeWait ∧
    (s.endLong c code).chan c = { s.chan c with longCmd := none } ∧
    ∀ d, c ≠ d → (s.endLong c code).chan d = s.chan d := by
  unfold State.endLong
  split
  · rename_i h
    refine ⟨rfl, rfl, rfl, rfl, rfl, rfl, rfl, rfl, rfl, ?_, fun _ _ => rfl⟩
    rw [← h]
  · dsimp only
    split
    · exact ⟨rfl, rfl, rfl, rfl, rfl, rfl, rfl, rfl, rfl, State.chan_modChan_same s c fun x => { x with longCmd := none },
        fun d h => State.chan_modChan_ne s (fun x => { x with longCmd := none }) h⟩
    · exact ⟨rfl, rfl, rfl, rfl, rfl, rfl, rfl, rfl, rfl, State.chan_modChan_same s c fun x => { x with longCmd := none },
        fun d h => State.chan_modChan_ne s (fun x => { x with longCmd := none }) h⟩

@[simp] theorem endLong_now (s : State) (c : Chan) (k : MgmtCode) : (s.endLong c k).now = s.now := (endLong_frame s c k).1
@[simp] theorem endLong_link (s : State) (c : Chan) (k : MgmtCode) : (s.endLong c k).link = s.link :=
  (endLong_frame s c k).2.1
@[simp] theorem endLong_intake (s : State) (c : Chan) (k : MgmtCode) : (s.endLong c k).intake = s.intake :=
  (endLong_frame s c k).2.2.1
@[simp] theorem endLong_map (s : State) (c : Chan) (k : MgmtCode) : (s.endLong c k).map = s.map :=
  (endLong_frame s c k).2.2.2.1
@[simp] theorem endLong_mgmt (s : State) (c : Chan) (k : MgmtCode) : (s.endLong c k).mgmt = s.mgmt :=
  (endLong_frame s c k).2.2.2.2.1
@[simp] theorem endLong_pending (s : State) (c : Chan) (k : MgmtCode) : (s.endLong c k).pending = s.pending :=
  (endLong_frame s c k).2.2.2.2.2.1
@[simp] theorem endLong_slots (s : State) (c : Chan) (k : MgmtCode) : (s.endLong c k).ret.slots = s.ret.slots :=
  (endLong_frame s c k).2.2.2.2.2.2.1
@[simp] theorem endLong_chan_same (s : State) (c : Chan) (k : MgmtCode) :
    (s.endLong c k).chan c = { s.chan c with longCmd := none } := (endLong_frame s c k).2.2.2.2.2.2.2.2.2.1
theorem endLong_chan_ne (s : State) {c d : Chan} (k : MgmtCode) (h : c ≠ d) : (s.endLong c k).chan d = s.chan d :=
  (endLong_frame s c k).2.2.2.2.2.2.2.2.2.2 d h

/-- Settling a channel changes that channel and the response queue, nothing else. -/
theorem settle_frame (s : State) (c : Chan) :
    (s.settle c).now = s.now ∧ (s.settle c).link = s.link ∧ (s.settle c).intake = s.intake ∧
    (s.settle c).map = s.map ∧ (s.settle c).mgmt = s.mgmt ∧ (s.settle c).pending = s.pending ∧
    (s.settle c).ret.slots = s.ret.slots ∧ ∀ d, c ≠ d → (s.settle c).chan d = s.chan d := by
  unfold State.settle
  dsimp only
  split
  · refine ⟨?_, ?_, ?_, ?_, ?_, ?_, ?_, fun d h => ?_⟩
    · exact endLong_now ..
    · exact endLong_link ..
    · exact endLong_intake ..
    · exact endLong_map ..
    · exact endLong_mgmt ..
    · exact endLong_pending ..
    · exact endLong_slots ..
    · rw [State.chan_modChan_ne _ _ h, endLong_chan_ne _ _ h, State.chan_modChan_ne _ _ h]
  · exact ⟨rfl, rfl, rfl, rfl, rfl, rfl, rfl, fun d h => State.chan_modChan_ne _ _ h⟩

@[simp] theorem settle_now (s : State) (c : Chan) : (s.settle c).now = s.now := (settle_frame s c).1
@[simp] theorem settle_link (s : State) (c : Chan) : (s.settle c).link = s.link := (settle_frame s c).2.1
@[simp] theorem settle_intake (s : State) (c : Chan) : (s.settle c).intake = s.intake := (settle_frame s c).2.2.1
@[simp] theorem settle_map (s : State) (c : Chan) : (s.settle c).map = s.map := (settle_frame s c).2.2.2.1
@[simp] theorem settle_mgmt (s : State) (c : Chan) : (s.settle c).mgmt = s.mgmt := (settle_frame s c).2.2.2.2.1
@[simp] theorem settle_pending (s : State) (c : Chan) : (s.settle c).pending = s.pending := (settle_frame s c).2.2.2.2.2.1
@[simp] theorem settle_slots (s : State) (c : Chan) : (s.settle c).ret.slots = s.ret.slots :=
  (settle_frame s c).2.2.2.2.2.2.1
theorem settle_chan_ne (s : State) {c d : Chan} (h : c ≠ d) : (s.settle c).chan d = s.chan d :=
  (settle_frame s c).2.2.2.2.2.2.2 d h

/-- A channel that is not draining to its end only has its idleness judged. -/
theorem settle_of_not_drained {s : State} {c : Chan} (h : (s.chan c).drained = false) :
    s.settle c = s.modChan c fun x => x.judgeIdle s.now := by
  simp [State.settle, h]

/-- A channel with an entry in its pool neither ends a drain nor is idle: settling stops its idle timer. -/
theorem settle_of_pool {s : State} {c : Chan} (h : (s.chan c).pool ≠ []) :
    s.settle c = s.modChan c fun x => { x with idleTimer := .stopped } := by
  rw [settle_of_not_drained (by simp [Channel.drained, h])]
  unfold State.modChan
  simp [Channel.judgeIdle, Channel.idle, h]

/-- What settling makes of its channel. -/
theorem settle_chan_same (s : State) (c : Chan) : (s.settle c).chan c =
    (if (s.chan c).drained then { s.chan c with state := .held, longCmd := none } else s.chan c).judgeIdle s.now := by
  unfold State.settle
  dsimp only
  split
  · rw [State.chan_modChan_same, endLong_chan_same, endLong_now, State.chan_modChan_same]; rfl
  · rw [State.chan_modChan_same]

/-- What settling makes of its channel depends on the channel and on the time alone. -/
theorem settle_chan_congr {s t : State} {c : Chan} (hc : s.chan c = t.chan c) (hn : s.now = t.now) :
    (s.settle c).chan c = (t.settle c).chan c := by
  rw [settle_chan_same, settle_chan_same, hc, hn]

/-- Settling answers nothing when the channel's long command can no longer be answered. -/
theorem settle_ret_of_unanswerable {s : State} {c : Chan} (h : ∀ r, (s.chan c).longCmd = some r → r.answerable = false) :
    (s.settle c).ret = s.ret := by
  unfold State.settle
  dsimp only
  split
  · rw [State.modChan_ret]
    unfold State.endLong
    split
    · rfl
    · rename_i r hr
      rw [State.chan_modChan_same] at hr
      rw [if_neg (by simp [h r hr])]
      rfl
  · rfl

/-- Settling both channels settles each. -/
theorem settleAll_chan (s : State) (c : Chan) : s.settleAll.chan c = (s.settle c).chan c := by
  unfold State.settleAll
  match c with
  | 0 => exact settle_chan_ne _ (by decide)
  | 1 => exact settle_chan_congr (settle_chan_ne s (by decide)) (settle_now ..)

theorem settleAll_frame (s : State) :
    s.settleAll.now = s.now ∧ s.settleAll.link = s.link ∧ s.settleAll.intake = s.intake ∧ s.settleAll.map = s.map ∧
    s.settleAll.mgmt = s.mgmt ∧ s.settleAll.pending = s.pending ∧ s.settleAll.ret.slots = s.ret.slots := by
  simp [State.settleAll]

theorem settleAll_ret_of_unanswerable {s : State} (h : ∀ c r, (s.chan c).longCmd = some r → r.answerable = false) :
    s.settleAll.ret = s.ret := by
  unfold State.settleAll
  rw [settle_ret_of_unanswerable, settle_ret_of_unanswerable (h 0)]
  rw [settle_chan_ne s (by decide)]
  exact h 1

/-! ### The band in force, and the trim intervals -/

/-- A band change reaches both channels, and nothing else but the band changes (R90, R93). -/
theorem setBand_eq (s : State) (b : Band) : s.setBand b = { s with
    mgmt := { s.mgmt with temp := { s.mgmt.temp with band := b } }, chans := (s.setBand b).chans } := by
  unfold State.setBand
  split
  · rename_i h; subst h; rfl
  · rfl

theorem takeBand_same (x : Channel) (now : Nat) (b : Band) : x.takeBand now b b = x := by
  unfold Channel.takeBand
  cases x.interval <;> simp

theorem setBand_chan (s : State) (b : Band) (c : Chan) :
    (s.setBand b).chan c = (s.chan c).takeBand s.now s.band b := by
  unfold State.setBand
  split
  · rename_i h; rw [h, takeBand_same]
  · revert c
    refine Fin.forall_fin_two.mpr ⟨?_, ?_⟩
    · rw [State.chan_modChan_ne _ _ (by decide), State.chan_modChan_same]; rfl
    · rw [State.chan_modChan_same, State.chan_modChan_ne _ _ (by decide)]; rfl

/-- A band change touches a running refresh interval alone (R93). -/
theorem takeBand_frame (x : Channel) (now : Nat) (old new : Band) :
    x.takeBand now old new = { x with interval := (x.takeBand now old new).interval } := by
  unfold Channel.takeBand
  dsimp only
  repeat' split
  all_goals rfl

theorem takeBand_of_stopped {x : Channel} (h : x.interval.isRunning = false) (now : Nat) (old new : Band) :
    x.takeBand now old new = x := by
  unfold Channel.takeBand
  cases hi : x.interval <;> simp_all [Timer.isRunning]

theorem takeBand_of_running {x : Channel} {st e : Nat} (h : x.interval = .running st e) (now : Nat) (old new : Band) :
    x.takeBand now old new = { x with interval := Timer.running st (
      if intervalLength new x.settings < intervalLength old x.settings ∧ now + intervalLength new x.settings < e
        then now + intervalLength new x.settings else e) } := by
  unfold Channel.takeBand
  rw [h]
  dsimp only
  split
  · rfl
  · rw [← h]

/-- A recomputation of the trim intervals: each channel recomputes its own, and settles. -/
theorem recomputeTrims_chan (s : State) (c : Chan) : s.recomputeTrims.chan c =
    ((s.setChan c ((s.chan c).recomputeTrim s.now s.mgmt.settings s.mgmt.temp.drift)).settle c).chan c := by
  have gen : ∀ f : Channel → Channel, (((s.modChan 0 f).modChan 1 f).settleAll).chan c =
      ((s.setChan c (f (s.chan c))).settle c).chan c := by
    intro f
    rw [settleAll_chan]
    refine settle_chan_congr ?_ rfl
    rw [State.chan_setChan_same]
    revert c
    refine Fin.forall_fin_two.mpr ⟨?_, ?_⟩
    · rw [State.chan_modChan_ne _ _ (by decide), State.chan_modChan_same]
    · rw [State.chan_modChan_same, State.chan_modChan_ne _ _ (by decide)]
  exact gen _

theorem recomputeTrims_frame (s : State) :
    s.recomputeTrims.now = s.now ∧ s.recomputeTrims.link = s.link ∧ s.recomputeTrims.intake = s.intake ∧
    s.recomputeTrims.map = s.map ∧ s.recomputeTrims.mgmt = s.mgmt ∧ s.recomputeTrims.pending = s.pending ∧
    s.recomputeTrims.ret.slots = s.ret.slots :=
  settleAll_frame _

theorem recomputeTrim_interval (x : Channel) (now : Nat) (m : MaintSettings) (d : Nat) :
    (x.recomputeTrim now m d).interval = x.interval := by
  unfold Channel.recomputeTrim Channel.shortTrimFallsDue
  dsimp only
  repeat' split
  all_goals rfl

/-- A recomputation leaves the computed interval. -/
theorem recomputeTrim_trimInterval (x : Channel) (now : Nat) (m : MaintSettings) (d : Nat) :
    (x.recomputeTrim now m d).trimInterval = trimIntervalOf m d := by
  unfold Channel.recomputeTrim Channel.shortTrimFallsDue
  dsimp only
  repeat' split
  all_goals first | rfl | simp_all

theorem judgeIdle_frame (x : Channel) (now : Nat) :
    x.judgeIdle now = { x with idleTimer := (x.judgeIdle now).idleTimer } := by
  unfold Channel.judgeIdle
  repeat' split
  all_goals rfl

end Sys2Proof.Laws
end

