-- ==== Sys2Proof/Laws/Packets.lean ====
section
/-! SUPPORT. The fields of packets: the bytes of a field, the reserved bytes, what a packet of each kind asks for, and
what each field of the management tables reads. -/

namespace Sys2Proof.Laws

open Sys2Proof.Machine Sys2Proof.Safety

/-! ### The bytes of a payload -/

/-- Byte `k` of the number that a list of bytes spells. -/
theorem leNat_byte : ∀ (bs : List Byte) (k : Nat), leNat bs / 2 ^ (8 * k) % 256 = (bs.getD k 0).toNat := by
  intro bs
  induction bs with
  | nil => intro k; simp [leNat]
  | cons b t ih =>
    intro k
    have hb : b.toNat < 256 := b.isLt
    have hc : leNat (b :: t) = b.toNat + 256 * leNat t := rfl
    cases k with
    | zero => simp [hc]; omega
    | succ k =>
      rw [hc, show 2 ^ (8 * (k + 1)) = 256 * 2 ^ (8 * k) by rw [Nat.mul_add, Nat.pow_add]; omega, ← Nat.div_div_eq_div_mul,
        show (b.toNat + 256 * leNat t) / 256 = leNat t by omega, ih k]
      simp

/-- The field that `n` bytes from byte `i` spell has these bytes. -/
theorem fieldAt_slice {w : Nat} (b : List Byte) (i n : Nat) (h : 8 * n ≤ w) :
    FieldAt b i n (BitVec.ofNat w (leNat (byteSlice b i n))) := by
  intro k hk
  apply BitVec.eq_of_toNat_eq
  rw [BitVec.extractLsb'_toNat, BitVec.toNat_ofNat, Nat.shiftRight_eq_div_pow]
  have hp : 2 ^ w = 2 ^ (8 * k) * (256 * 2 ^ (w - 8 * k - 8)) := by
    rw [show 256 = 2 ^ 8 from rfl, ← Nat.pow_add, ← Nat.pow_add]
    congr 1; omega
  rw [hp, Nat.mod_mul_right_div_self, show 2 ^ 8 = 256 from rfl, Nat.mod_mul_right_mod, leNat_byte]
  congr 1
  simp [byteSlice, List.getD_eq_getElem?_getD, hk]

theorem leBytes_length (n v : Nat) : (leBytes n v).length = n := by
  induction n generalizing v with
  | zero => rfl
  | succ n ih => simp [leBytes, ih]

/-- Byte `k` of the bytes of a number. -/
theorem leBytes_byte {n k : Nat} (v : Nat) (h : k < n) : (leBytes n v).getD k 0 = BitVec.ofNat 8 (v / 2 ^ (8 * k)) := by
  induction n generalizing v k with
  | zero => omega
  | succ n ih =>
    cases k with
    | zero => simp [leBytes]
    | succ k =>
      simp only [leBytes, List.getD_cons_succ]
      rw [ih _ (by omega), Nat.div_div_eq_div_mul]
      congr 2
      rw [Nat.mul_add, Nat.pow_add]; omega

/-- The bytes of a value, put at byte `i` of a payload, are its field there. -/
theorem fieldAt_leBytes {w : Nat} (before behind : List Byte) (v : BitVec w) {i n : Nat} (h : before.length = i) :
    FieldAt (before ++ leBytes n v.toNat ++ behind) i n v := by
  intro k hk
  have e := leBytes_byte v.toNat hk
  rw [List.getD_eq_getElem?_getD] at e
  rw [List.getD_eq_getElem?_getD, List.append_assoc, List.getElem?_append_right (by omega), h, Nat.add_sub_cancel_left,
    List.getElem?_append_left (by rw [leBytes_length]; exact hk), e]
  apply BitVec.eq_of_toNat_eq
  simp [BitVec.extractLsb'_toNat, Nat.shiftRight_eq_div_pow]

theorem allZero_iff (b : List Byte) (i n : Nat) (h : 0 < n) :
    allZero (byteSlice b i n) = true ↔ ZeroBytes b i (i + n - 1) := by
  unfold allZero byteSlice ZeroBytes
  rw [List.all_eq_true]
  simp only [beq_iff_eq, List.getD_eq_getElem?_getD]
  constructor
  · intro h k h1 h2
    by_cases hl : k < b.length
    · rw [List.getElem?_eq_getElem hl]
      refine h _ (List.mem_take_iff_getElem.mpr ⟨k - i, ?_, ?_⟩)
      · simp; omega
      · simp; congr 1; omega
    · simp [List.getElem?_eq_none (by omega : b.length ≤ k)]
  · intro h x hx
    obtain ⟨j, hj, rfl⟩ := List.mem_take_iff_getElem.mp hx
    simp only [List.length_drop, Nat.lt_min] at hj
    have := h (i + j) (by omega) (by omega)
    rw [List.getElem?_eq_getElem (by omega)] at this
    simpa using this

theorem drop_allZero_iff (b : List Byte) (i n : Nat) (h : b.length = i + n) (hn : 0 < n) :
    allZero (b.drop i) = true ↔ ZeroBytes b i (i + n - 1) := by
  rw [← allZero_iff b i n hn, byteSlice, List.take_of_length_le]
  simp [h]

theorem byte_zero_iff (b : List Byte) (i : Nat) : (byteAt b i == 0#8) = true ↔ ZeroBytes b i i := by
  unfold byteAt ZeroBytes
  rw [beq_iff_eq]
  exact ⟨fun h k h1 h2 => by rw [show k = i by omega]; exact h, fun h => h i (le_refl _) (le_refl _)⟩

theorem flags_zero_iff (x : Byte) : (x &&& 0xFE#8 == 0#8) = true ↔ ∀ n, 1 ≤ n → n ≤ 7 → x.getLsbD n = false := by
  rw [beq_iff_eq]
  constructor
  · intro h n h1 h2
    have hn := congrArg (fun y => y.getLsbD n) h
    have hm : (0xFE#8).getLsbD n = true := by
      interval_cases n <;> rfl
    simp only [BitVec.getLsbD_and, hm, Bool.and_true, BitVec.getLsbD_zero] at hn
    exact hn
  · intro h
    apply BitVec.eq_of_getLsbD_eq
    intro n hn
    rw [BitVec.getLsbD_and, BitVec.getLsbD_zero]
    by_cases h0 : n = 0
    · subst h0; rw [show (0xFE#8).getLsbD 0 = false from rfl, Bool.and_false]
    · rw [h n (by omega) (by omega), Bool.false_and]

theorem requestOf_read (i : StreamIx) (t : TagIx) (b : List Byte) : requestOf ⟨0x01#8, i, t, b⟩ =
    if b.length == 8 && allZero (b.drop 5) then .read (addrOf b) else .malformed := rfl

theorem requestOf_write (i : StreamIx) (t : TagIx) (b : List Byte) : requestOf ⟨0x02#8, i, t, b⟩ =
    if b.length == 72 && allZero (byteSlice b 6 2) then .write (addrOf b) (byteAt b 5) (lineOfBytes (b.drop 8)) else .malformed := rfl

theorem requestOf_flush (i : StreamIx) (t : TagIx) (b : List Byte) : requestOf ⟨0x03#8, i, t, b⟩ =
    if b.length == 0 then .flush else .malformed := rfl

theorem requestOf_mgmtRead (i : StreamIx) (t : TagIx) (b : List Byte) : requestOf ⟨0x04#8, i, t, b⟩ =
    if b.length == 4 && byteAt b 3 == 0#8 then .mgmtRead (mgmtAddrOf b) else .malformed := rfl

theorem requestOf_mgmtWrite (i : StreamIx) (t : TagIx) (b : List Byte) : requestOf ⟨0x05#8, i, t, b⟩ =
    if b.length == 8 && byteAt b 3 == 0#8 then .mgmtWrite (mgmtAddrOf b) (word32At b 4) else .malformed := rfl

theorem requestOf_mgmtCommand (i : StreamIx) (t : TagIx) (b : List Byte) : requestOf ⟨0x06#8, i, t, b⟩ =
    if b.length == 8 && commandReservedZero b then .mgmtCommand (byteAt b 0).toNat (byteAt b 1).toNat (commandArg b) else .malformed := rfl

theorem ite_malformed_iff {c : Prop} [Decidable c] {x : Request} (hx : x ≠ .malformed) :
    (if c then x else Request.malformed) = .malformed ↔ ¬c := by
  by_cases h : c <;> simp [h, hx]

/-! ### The management tables -/

theorem word_toNat (w : Word32) : word w.toNat = w := by simp [word]

/-- A field given by a table of cases agrees with a list of values. -/
theorem field_eq_list (f : Nat → Option Nat) (l : List Word32) (n : Nat) (hl : l.length = n)
    (h : ∀ k, k < n → (f k).map word = l[k]?) (hn : ∀ k, n ≤ k → f k = none) (k : Nat) : (f k).map word = l[k]? := by
  by_cases hk : k < n
  · exact h k hk
  · rw [hn k (by omega), List.getElem?_eq_none (by omega)]; rfl

theorem region_field (r : Region) : ∀ k, (r.field k).map word = (regionFields r)[k]? := by
  refine field_eq_list _ _ 9 rfl (fun k hk => ?_) fun k hk => ?_
  · have e1 : word (r.base.toNat % 4294967296) = r.base.extractLsb' 0 32 := by
      apply BitVec.eq_of_toNat_eq; simp [word]
    have e2 : word (r.limit.toNat % 4294967296) = r.limit.extractLsb' 0 32 := by
      apply BitVec.eq_of_toNat_eq; simp [word]
    interval_cases k
    · cases hv : r.valid <;> simp [Region.field, regionFields, hv, yesNo, flag]
    · simp only [Region.field, regionFields, Option.map_some, e1]; rfl
    · rfl
    · simp only [Region.field, regionFields, Option.map_some, e2]; rfl
    · rfl
    · rfl
    · rfl
    · rfl
    · cases hv : r.writable <;> simp [Region.field, regionFields, hv, yesNo, flag]
  · unfold Region.field; split <;> first | omega | rfl

theorem layout_field (r : Layout) : ∀ k, (r.field k).map word = (layoutFields r)[k]? := by
  refine field_eq_list _ _ 2 rfl (fun k hk => ?_) fun k hk => ?_
  · interval_cases k
    · obtain ⟨m, _⟩ := r; cases m <;> rfl
    · rfl
  · unfold Layout.field; split <;> first | omega | rfl

theorem setting_field (x : Settings) : ∀ k, (x.field k).map word = (settingFields x)[k]? := by
  refine field_eq_list _ _ 23 rfl (fun k hk => ?_) fun k hk => ?_
  · interval_cases k <;> rfl
  · unfold Settings.field; split <;> first | omega | rfl

theorem maint_field (x : MaintSettings) : ∀ k, (x.field k).map word = (maintenanceFields x)[k]? := by
  refine field_eq_list _ _ 10 rfl (fun k hk => ?_) fun k hk => ?_
  · interval_cases k <;> rfl
  · unfold MaintSettings.field; split <;> first | omega | rfl

theorem flag_eq (b : Bool) : word (yesNo b) = flag b := by cases b <;> rfl

theorem stream_field (s : State) (i : StreamIx) : ∀ k, (s.streamsField i k).map word = (streamFields s i)[k]? := by
  refine field_eq_list _ _ 6 rfl (fun k hk => ?_) fun k hk => ?_
  · interval_cases k
    · unfold State.streamsField streamFields; cases (s.stream i).orderMode <;> rfl
    · simp only [State.streamsField, streamFields, Option.map_some, flag_eq]; rfl
    · simp only [State.streamsField, streamFields, Option.map_some, flag_eq]; rfl
    · simp only [State.streamsField, streamFields, Option.map_some, Intake.outstanding, List.countP_eq_length_filter]
      exact congrArg (fun p => some (word (s.intake.tags.filter p).length)) (funext fun t => (Bool.beq_eq_decide_eq t.1 i))
    · rfl
    · rfl
  · unfold State.streamsField; split <;> first | omega | rfl

theorem temp_field (x : TempRecord) : ∀ k, (x.field k).map word = (temperatureFields x)[k]? := by
  refine field_eq_list _ _ 6 rfl (fun k hk => ?_) fun k hk => ?_
  · interval_cases k
    · simp only [TempRecord.field, temperatureFields, Option.map_some, reportField, signed32, word_toNat]; rfl
    · simp only [TempRecord.field, temperatureFields, Option.map_some, flag_eq]; rfl
    · unfold TempRecord.field temperatureFields; cases x.band <;> rfl
    · simp only [TempRecord.field, temperatureFields, Option.map_some, flag_eq]; rfl
    · rfl
    · simp only [TempRecord.field, temperatureFields, Option.map_some, reportField, signed32, word_toNat]; rfl
  · unfold TempRecord.field; split <;> first | omega | rfl

theorem status_field (x : Channel) (now : Nat) : ∀ k, (x.statusField now k).map word = (statusFields x now)[k]? := by
  refine field_eq_list _ _ 7 rfl (fun k hk => ?_) fun k hk => ?_
  · interval_cases k
    · unfold Channel.statusField statusFields; cases x.state <;> rfl
    · simp only [Channel.statusField, statusFields, Option.map_some, signed32, word_toNat]; rfl
    · simp only [Channel.statusField, statusFields, Option.map_some, flag_eq]; rfl
    · rfl
    · rfl
    · simp only [Channel.statusField, statusFields, Option.map_some, Channel.trimRemaining, Config.unitsPerMs]
      cases x.trimTimer with
      | running st e =>
        dsimp only
        rw [show e - now + 4000000 - 1 = e - now + 3999999 by omega]
        rfl
      | _ => rfl
    · unfold Channel.statusField statusFields
      cases h : x.longCmd with
      | none => rfl
      | some r => obtain ⟨c, _⟩ := r; cases c <;> rfl
  · unfold Channel.statusField; split <;> first | omega | rfl

theorem counter_field (x : Counters) : ∀ k, (x.field k).map word = (counterFields x)[k]? := by
  refine field_eq_list _ _ 9 rfl (fun k hk => ?_) fun k hk => ?_
  · interval_cases k <;> (simp only [Counters.field, counterFields, Option.map_some, word_toNat]; rfl)
  · unfold Counters.field; split <;> first | omega | rfl

theorem fault_field (f : Option FaultRecord) : ∀ k, (faultField f k).map word = (faultFields f)[k]? := by
  refine field_eq_list _ _ 5 (by cases f <;> rfl) (fun k hk => ?_) fun k hk => ?_
  · cases f with
    | none => interval_cases k <;> rfl
    | some f =>
      obtain ⟨_, c, d, _⟩ := f
      interval_cases k
      · rfl
      · rfl
      · cases c <;> rfl
      · simp only [faultField, faultFields, Option.map_some, Option.getD_some, word_toNat]; rfl
      · rfl
  · unfold faultField; split <;> first | omega | rfl

theorem link_field (s : State) : ∀ k, (s.linkField k).map word = (linkFields s)[k]? := by
  refine field_eq_list _ _ 13 rfl (fun k hk => ?_) fun k hk => ?_
  · interval_cases k
    · unfold State.linkField linkFields; cases s.link.state <;> rfl
    all_goals first | rfl | (simp only [State.linkField, linkFields, Option.map_some, word_toNat]; rfl)
  · unfold State.linkField; split <;> first | omega | rfl

theorem ident_field : ∀ k, (identField k).map word = [0x2408, 1, 2, 4, 64, 48, 32, 16, 4, 32][k]? := by
  refine field_eq_list _ _ 10 rfl (fun k hk => ?_) fun k hk => ?_
  · interval_cases k <;> rfl
  · unfold identField; split <;> first | omega | rfl

theorem map_field (m : MapUnit) : ∀ k, (m.statusField k).map word = [word m.epoch.toNat, word m.current, word m.previous][k]? := by
  refine field_eq_list _ _ 3 rfl (fun k hk => ?_) fun k hk => ?_
  · interval_cases k <;> rfl
  · unfold MapUnit.statusField; split <;> first | omega | rfl

/-- What a management field reads, as the fields of its entry listed. -/
theorem readField_eq (s : State) (a : MgmtAddr) :
    (s.readField a).map word = (entryFields s a.table a.entry)[a.field]? := by
  obtain ⟨t, e, k⟩ := a
  unfold State.readField entryFields onlyEntry
  dsimp only
  split
  · split
    · exact ident_field k
    · rfl
  · split
    · exact stream_field ..
    · rfl
  · split
    · exact region_field ..
    · rfl
  · split
    · exact region_field ..
    · rfl
  · split
    · exact layout_field ..
    · rfl
  · split
    · exact layout_field ..
    · rfl
  · split
    · exact setting_field ..
    · rfl
  · split
    · exact maint_field ..
    · rfl
  · split
    · exact temp_field ..
    · rfl
  · split
    · exact status_field ..
    · rfl
  · split
    · exact counter_field ..
    · rfl
  · split
    · exact fault_field ..
    · rfl
  · split
    · exact map_field ..
    · rfl
  · split
    · exact link_field ..
    · rfl
  · first
    | rfl
    | (split <;> first | rfl | (exfalso; simp_all))

/-! ### The ranges of the writable fields -/

/-- The index test of a map table write is the table's range of entries and fields. -/
theorem mapIndexOk_iff {a : MgmtAddr} (h : a.table ∈ [2, 3, 4, 5]) : mapIndexOk a = true ↔ MapIndex a := by
  unfold mapIndexOk MapIndex
  simp only [List.mem_cons, List.not_mem_nil, or_false] at h ⊢
  rcases h with h | h | h | h <;> simp [h]

/-- The value test of a map table write is the field's range. -/
theorem mapValueOk_iff {a : MgmtAddr} (h : a.table = 2 ∨ a.table = 4) (hi : MapIndex a) (v : Word32) :
    mapValueOk a v.toNat = true ↔ MapRange a v.toNat := by
  have hv := v.isLt
  obtain ⟨t, e, f⟩ := a
  unfold mapValueOk MapRange FieldRange regionRanges layoutRanges
  simp only [MapIndex] at hi
  rcases h with h | h <;> simp only [] at h <;> subst h
  · have hf : f ≤ 8 := by simp at hi; omega
    interval_cases f <;> simp <;> omega
  · have hf : f ≤ 1 := by simp at hi; omega
    interval_cases f <;> simp

/-- The value test of a channel settings write is the setting's range. -/
theorem settingInRange_iff {i : Nat} (h : i ≤ 22) (v : Nat) : settingInRange i v = true ↔ SettingRange i v := by
  unfold settingInRange SettingRange
  rcases Nat.lt_or_ge 20 i with hi | hi
  · have : i = 21 ∨ i = 22 := by omega
    rcases this with rfl | rfl <;> simp [or_assoc]
  · simp [hi]; omega

/-- The value test of a maintenance write is the setting's range. -/
theorem maintInRange_iff {i : Nat} (h : i ≤ 9) (v : Nat) :
    maintInRange i v = true ↔ FieldRange maintenanceRanges i v := by
  unfold FieldRange maintenanceRanges
  interval_cases i <;> simp [maintInRange]

/-- A maintenance write is judged OK exactly when it passes, and BAD_VALUE otherwise. -/
theorem judgeMaintenance_ok_iff {k : Nat} (q : QueuedPacket) (v : Word32) (s : State) (h : k ≤ 9) :
    (judgeMaintenance q ⟨7, 0, k⟩ v s = .ok ↔ MaintenancePasses s.mgmt.settings k v.toNat) ∧
    (¬MaintenancePasses s.mgmt.settings k v.toNat → judgeMaintenance q ⟨7, 0, k⟩ v s = .badValue) := by
  have hm := maintInRange_iff h v.toNat
  unfold judgeMaintenance MaintenancePasses
  rw [← hm]
  constructor <;> simp only [show ¬(9 < k) by omega] <;> split_ifs <;> simp_all

end Sys2Proof.Laws
end

