-- ==== Sys2Proof/Laws/Resets.lean ====
section
/-! SUPPORT. The discards of a link reset and of a function reset: what retirements can change, what the discard of a
pool does (R60), what the emptying of the Return Unit does (R149), and the three together. -/

namespace Sys2Proof.Laws

open Sys2Proof.Machine Sys2Proof.Safety

/-! ### Retirements -/

/-- What retirements can change of a state: the outstanding counts, and with the last of the epoch before, MAP_DRAINED. -/
def Retired (s t : State) : Prop :=
  t.map = { s.map with current := t.map.current, previous := t.map.previous } ∧
  t.map.previous ≤ s.map.previous ∧ t.mgmt = { s.mgmt with notices := t.mgmt.notices } ∧
  (s.map.previous = 0 ∨ t.map.previous ≠ 0 → t.mgmt.notices = s.mgmt.notices) ∧
  (s.map.previous ≠ 0 → t.map.previous = 0 → t.mgmt.notices = s.raiseDrained.mgmt.notices)

theorem Retired.of_eq {s t : State} (hm : t.map = s.map) (hg : t.mgmt = s.mgmt) : Retired s t :=
  ⟨by rw [hm], by rw [hm], by rw [hg], fun _ => by rw [hg], fun h h' => absurd (hm ▸ h') h⟩

theorem Retired.refl (s : State) : Retired s s := Retired.of_eq rfl rfl

/-- The notices after a raised one depend on the notices before and on what is enabled. -/
theorem raiseNotice_notices_congr {s t : State} (n : Notice) (he : s.mgmt.settings = t.mgmt.settings)
    (hn : s.mgmt.notices = t.mgmt.notices) : (s.raiseNotice n).mgmt.notices = (t.raiseNotice n).mgmt.notices := by
  have h : ∀ s : State, (s.raiseNotice n).mgmt.notices =
      if (noticeEnabled s.mgmt.settings.noticeEnable n.kind && !(s.mgmt.notices.any n.samePair)) = true
      then insertNotice n s.mgmt.notices else s.mgmt.notices := by
    intro s
    unfold State.raiseNotice
    split
    · dsimp only; split <;> rfl
    · rfl
  rw [h, h, he, hn]

/-- A raised notice changes the notice set of the Management Unit. -/
theorem raiseNotice_mgmt (s : State) (n : Notice) :
    (s.raiseNotice n).mgmt = { s.mgmt with notices := (s.raiseNotice n).mgmt.notices } := by
  unfold State.raiseNotice
  split
  · dsimp only; split <;> rfl
  · rfl

theorem Retired.trans {s t u : State} (h : Retired s t) (k : Retired t u) : Retired s u := by
  obtain ⟨h1, h2, h3, h4, h5⟩ := h
  obtain ⟨k1, k2, k3, k4, k5⟩ := k
  refine ⟨?_, le_trans k2 h2, ?_, fun hp => ?_, fun hs hu => ?_⟩
  · rw [k1, h1]
  · rw [k3, h3]
  · rcases hp with hp | hp
    · rw [k4 (Or.inl (by omega)), h4 (Or.inl hp)]
    · rw [k4 (Or.inr hp), h4 (Or.inr (by omega))]
  · by_cases ht : t.map.previous = 0
    · rw [k4 (Or.inl ht), h5 hs ht]
    · rw [k5 ht hu]
      unfold State.raiseDrained
      have he : t.map.epoch = s.map.epoch := by rw [h1]
      rw [he]
      exact raiseNotice_notices_congr _ (by rw [h3]) (h4 (Or.inr ht))

theorem retired_retire (s : State) (e : Epoch) : Retired s (s.retire e) := by
  unfold State.retire
  split
  · exact ⟨rfl, le_refl _, rfl, fun _ => rfl, fun h h' => absurd h' h⟩
  · dsimp only
    split
    · rename_i hp
      refine ⟨?_, ?_, ?_, fun h => ?_, fun _ _ => ?_⟩
      · simp [State.raiseDrained]
      · simp [State.raiseDrained]
      · exact raiseNotice_mgmt _ _
      · simp [State.raiseDrained, hp] at h
      · exact raiseNotice_notices_congr _ rfl rfl
    · rename_i hp
      exact ⟨rfl, Nat.sub_le .., rfl, fun _ => rfl, fun h h' => absurd h' (by simp; omega)⟩

/-! ### The discard of the pools -/

/-- A change of a stream's entry that leaves it as it is leaves the state as it is. -/
theorem modStream_self {s : State} {i : StreamIx} {f : StreamEntry → StreamEntry}
    (h : f s.intake.streams[i] = s.intake.streams[i]) : s.modStream i f = s := by
  unfold State.modStream State.modIntake
  dsimp only
  rw [h]
  simp only [Fin.getElem_fin, Vector.set_getElem_self]

/-- A report of a write changes nothing where its stream's flush list is empty. -/
theorem reportWrite_of_no_flushes {s : State} {i : StreamIx} (o : OrderNo) (h : (s.stream i).flushes = []) :
    s.reportWrite i o = s := by
  unfold State.reportWrite
  rw [h]
  refine modStream_self ?_
  unfold State.stream at h
  cases hx : s.intake.streams[i]
  simp_all [flushesLeft]

/-- The discard of a list of pool entries where no flush waits: the slots of its reads are FREE, and the rest is what
retirements change. -/
theorem discardEntries {l : List PoolEntry} : ∀ {s : State}, (∀ i, (s.stream i).flushes = []) →
    let u := l.foldl State.discardEntry s
    Retired s u ∧ u.now = s.now ∧ u.link = s.link ∧ u.intake = s.intake ∧ u.chans = s.chans ∧ u.pending = s.pending ∧
    u.ret.queue = s.ret.queue ∧ (∀ j : SlotIx, (∃ e ∈ l, e.kind = .read j) → u.ret.slots[j] = .free) ∧
    ∀ j : SlotIx, (∀ e ∈ l, e.kind ≠ .read j) → u.ret.slots[j] = s.ret.slots[j] := by
  induction l with
  | nil => intro s _; exact ⟨Retired.refl s, rfl, rfl, rfl, rfl, rfl, rfl, by simp, fun _ _ => rfl⟩
  | cons a t ih =>
    intro s hs
    have hstep : ∃ x, Retired s (s.discardEntry a) ∧ (s.discardEntry a).now = s.now ∧ (s.discardEntry a).link = s.link ∧
        (s.discardEntry a).intake = s.intake ∧ (s.discardEntry a).chans = s.chans ∧
        (s.discardEntry a).pending = s.pending ∧ (s.discardEntry a).ret.queue = s.ret.queue ∧
        (s.discardEntry a).ret.slots = x ∧ (∀ j : SlotIx, a.kind = .read j → x[j] = .free) ∧
        ∀ j : SlotIx, a.kind ≠ .read j → x[j] = s.ret.slots[j] := by
      unfold State.discardEntry
      cases hk : a.kind with
      | read i =>
        refine ⟨s.ret.slots.set i .free, ?_, by simp [State.setSlot], by simp [State.setSlot], by simp [State.setSlot],
          by simp [State.setSlot], by simp [State.setSlot], by simp [State.setSlot], by simp [State.setSlot], ?_, ?_⟩
        · exact Retired.trans (t := s.setSlot i .free) (Retired.of_eq rfl rfl) (retired_retire _ _)
        · rintro j ⟨⟩; simp
        · intro j hj
          have : i.val ≠ j.val := fun h => hj (by rw [Fin.ext h])
          simp [this]
      | write d en =>
        dsimp only
        rw [reportWrite_of_no_flushes _ (hs a.stream)]
        exact ⟨s.ret.slots, retired_retire _ _, by simp, by simp, by simp, by simp, by simp, by simp, by simp,
          by simp, fun _ _ => rfl⟩
    obtain ⟨x, h1, h2, h3, h4, h5, h6, h7, hx, h8, h9⟩ := hstep
    have hs' : ∀ i, ((s.discardEntry a).stream i).flushes = [] := fun i => by rw [State.stream, h4]; exact hs i
    obtain ⟨k1, k2, k3, k4, k5, k6, k7, k8, k9⟩ := ih hs'
    simp only [List.foldl_cons]
    refine ⟨h1.trans k1, k2.trans h2, k3.trans h3, k4.trans h4, k5.trans h5, k6.trans h6, k7.trans h7, ?_, ?_⟩
    · rintro j ⟨e, he, hj⟩
      by_cases ht : ∃ e ∈ t, e.kind = .read j
      · exact k8 j ht
      · rw [k9 j (by simpa using ht), hx]
        rcases List.mem_cons.mp he with rfl | he
        · exact h8 j hj
        · exact absurd ⟨e, he, hj⟩ ht
    · intro j hj
      rw [k9 j fun e he => hj e (List.mem_cons_of_mem _ he), hx]
      exact h9 j (hj a List.mem_cons_self)

theorem startRowHold_bank (x : Channel) (now : Nat) (a b : BankIx) : (x.startRowHold now a).bank b =
    if a = b ∧ (x.bank a).isOpen = true ∧ x.bankList a = [] ∧ (x.bank a).rowHold.isRunning = false then
      { x.bank b with rowHold := .running now (now + x.settings.rowHold) } else x.bank b := by
  unfold Channel.startRowHold
  simp only [Bool.and_eq_true, List.isEmpty_iff, Bool.not_eq_true']
  by_cases h : (x.bank a).isOpen = true ∧ x.bankList a = [] ∧ (x.bank a).rowHold.isRunning = false
  · rw [if_pos ⟨⟨h.1, h.2.1⟩, h.2.2⟩, Channel.bank_modBank]
    simp only [h, and_true]
    rfl
  · rw [if_neg fun h' => h ⟨h'.1.1, h'.1.2, h'.2⟩, if_neg fun h' => h h'.2]

theorem startRowHold_frame (x : Channel) (now : Nat) (b : BankIx) :
    x.startRowHold now b = { x with banks := (x.startRowHold now b).banks } := by
  unfold Channel.startRowHold
  split <;> rfl

theorem bankEmptied_eq (k : Bank) (now d : Nat) : bankEmptied k now d =
    if k.isOpen = true ∧ k.rowHold.isRunning = false then { k with rowHold := .running now (now + d) } else k := by
  obtain ⟨st, _, _, _, _, _, r, _, _⟩ := k
  unfold bankEmptied Bank.isOpen
  cases st with
  | opened => cases r.isRunning <;> simp
  | _ => simp

theorem bankEmptied_twice (k : Bank) (now d : Nat) :
    bankEmptied (bankEmptied k now d) now d = bankEmptied k now d := by
  rw [bankEmptied_eq, bankEmptied_eq]
  split
  · rw [if_neg (by simp [Timer.isRunning])]
  · rfl

/-- row_hold starts on the banks of a list, in a channel whose pool is empty. -/
theorem startRowHolds (now : Nat) : ∀ (l : List BankIx) (x : Channel), x.pool = [] →
    let y := l.foldl (fun y b => y.startRowHold now b) x
    y = { x with banks := y.banks } ∧
      ∀ b, y.bank b = if b ∈ l then bankEmptied (x.bank b) now x.settings.rowHold else x.bank b := by
  intro l
  induction l with
  | nil => intro x _; exact ⟨rfl, fun b => by simp⟩
  | cons a t ih =>
    intro x hx
    have hf := startRowHold_frame x now a
    have hp : (x.startRowHold now a).pool = [] := by rw [hf]; exact hx
    have hset : (x.startRowHold now a).settings = x.settings := by rw [hf]
    obtain ⟨h1, h2⟩ := ih (x.startRowHold now a) hp
    simp only [List.foldl_cons]
    refine ⟨?_, fun b => ?_⟩
    · rw [h1, hf]
    rw [h2 b, hset]
    have hone : (x.startRowHold now a).bank b = if a = b then bankEmptied (x.bank b) now x.settings.rowHold else x.bank b := by
      rw [startRowHold_bank]
      by_cases hab : a = b
      · subst hab
        have hl : x.bankList a = [] := by simp [Channel.bankList, hx]
        rw [if_pos rfl, bankEmptied_eq]
        simp only [hl, true_and]
      · simp [hab]
    rw [hone]
    by_cases hab : a = b
    · subst hab; simp [bankEmptied_twice]
    · have hba : b ≠ a := fun h => hab h.symm
      simp [hab, hba]

/-- What the discard of a pool does where no flush waits (R60). -/
theorem discardPool_frame {s : State} (c : Chan) (hs : ∀ i, (s.stream i).flushes = []) :
    let u := s.discardPool c
    Retired s u ∧ u.now = s.now ∧ u.link = s.link ∧ u.intake = s.intake ∧ u.pending = s.pending ∧
    u.ret.queue = s.ret.queue ∧ (∀ j : SlotIx, (∃ e ∈ (s.chan c).pool, e.kind = .read j) → u.ret.slots[j] = .free) ∧
    (∀ j : SlotIx, (∀ e ∈ (s.chan c).pool, e.kind ≠ .read j) → u.ret.slots[j] = s.ret.slots[j]) ∧
    (∀ b, (u.chan c).bank b = bankEmptied ((s.chan c).bank b) s.now (s.chan c).settings.rowHold) ∧
    u.chan c = { s.chan c with pool := [], banks := (u.chan c).banks } ∧ ∀ d, c ≠ d → u.chan d = s.chan d := by
  intro u
  obtain ⟨h1, h2, h3, h4, h5, h6, h7, h8, h9⟩ := discardEntries (l := (s.chan c).pool)
    (s := s.modChan c fun x => { x with pool := [] }) hs
  have hu : u = (s.discardPool c) := rfl
  unfold State.discardPool at hu
  dsimp only at hu
  generalize (s.chan c).pool.foldl State.discardEntry (s.modChan c fun x => { x with pool := [] }) = v at *
  have hc : v.chan c = { s.chan c with pool := [] } := by
    rw [State.chan, h5, ← State.chan, State.chan_modChan_same]
  obtain ⟨k1, k2⟩ := startRowHolds v.now bankIxs (v.chan c) (by rw [hc])
  refine ⟨?_, ?_, ?_, ?_, ?_, ?_, ?_, ?_, fun b => ?_, ?_, fun d hd => ?_⟩
  · rw [hu]
    exact Retired.trans (t := s.modChan c fun x => { x with pool := [] }) (Retired.of_eq rfl rfl)
      (h1.trans (Retired.of_eq rfl rfl))
  · rw [hu]; exact h2
  · rw [hu]; exact h3
  · rw [hu]; exact h4
  · rw [hu]; exact h6
  · rw [hu]; exact h7
  · rw [hu]; exact h8
  · rw [hu]; exact h9
  · rw [hu, State.chan_modChan_same, k2 b, if_pos (by revert b; decide), hc, h2]
    rfl
  · rw [hu, State.chan_modChan_same]
    exact k1.trans (by rw [hc])
  · rw [hu, State.chan_modChan_ne _ _ hd, State.chan, h5, ← State.chan, State.chan_modChan_ne _ _ hd]

/-! ### The Return Unit at a reset -/

theorem carries_burstAtReset (r : Response) (qs : List Response) (c : Chan) (w : WriteBurst) :
    (burstAtReset qs c w).carries r = w.carries r := rfl

/-- The emptying of a list of responses: the bursts of their WRITE_DONEs are marked, and other writes retire. -/
theorem emptyResponses (l : List Response) : ∀ s : State,
    let u := l.foldl State.emptyResponse s
    Retired s u ∧ u.now = s.now ∧ u.link = s.link ∧ u.intake = s.intake ∧ u.pending = s.pending ∧
    u.ret.slots = s.ret.slots ∧
    ∀ c, u.chan c = { s.chan c with writeBurst := (s.chan c).writeBurst.map (burstAtReset l c) } := by
  induction l with
  | nil =>
    intro s
    refine ⟨Retired.refl s, rfl, rfl, rfl, rfl, rfl, fun c => ?_⟩
    have : ∀ o : Option WriteBurst, o.map (burstAtReset [] c) = o := by
      intro o
      cases o <;> simp [burstAtReset]
    simp only [List.foldl_nil, this]
  | cons r t ih =>
    intro s
    have hstep : Retired s (s.emptyResponse r) ∧ (s.emptyResponse r).now = s.now ∧ (s.emptyResponse r).link = s.link ∧
        (s.emptyResponse r).intake = s.intake ∧ (s.emptyResponse r).pending = s.pending ∧
        (s.emptyResponse r).ret.slots = s.ret.slots ∧
        ∀ c, (s.emptyResponse r).chan c = { s.chan c with writeBurst := (s.chan c).writeBurst.map (burstAtReset [r] c) } := by
      have hsame : ∀ c, (∀ w, (s.chan c).writeBurst = some w → burstAtReset [r] c w = w) →
          s.chan c = { s.chan c with writeBurst := (s.chan c).writeBurst.map (burstAtReset [r] c) } := by
        intro c h
        have : (s.chan c).writeBurst.map (burstAtReset [r] c) = (s.chan c).writeBurst := by
          cases hw : (s.chan c).writeBurst with
          | none => rfl
          | some w => simp [h w hw]
        rw [this]
      unfold State.emptyResponse
      split
      · rename_i e d hb
        split
        · rename_i hcar
          refine ⟨Retired.of_eq rfl rfl, rfl, rfl, rfl, rfl, rfl, fun c => ?_⟩
          by_cases hd : d = c
          · subst hd
            rw [State.chan_modChan_same]
            unfold Channel.carries at hcar
            cases hw : (s.chan d).writeBurst with
            | none => rw [hw] at hcar; cases hcar
            | some w =>
              rw [hw] at hcar
              simp only [WriteBurst.carries, Bool.and_eq_true, beq_iff_eq] at hcar
              simp [Channel.discardBurst, hw, burstAtReset, hb, hcar]
          · rw [State.chan_modChan_ne _ _ hd]
            refine hsame c fun w hw => ?_
            simp [burstAtReset, hb, beq_eq_false_iff_ne.mpr hd]
        · rename_i hcar
          refine ⟨retired_retire _ _, by simp, by simp, by simp, by simp, by simp, fun c => ?_⟩
          rw [retire_chan]
          refine hsame c fun w hw => ?_
          by_cases hd : d = c
          · subst hd
            simp only [Channel.carries, hw, WriteBurst.carries, Bool.not_eq_true] at hcar
            have hcar' : (r.stream == w.stream && r.tag == w.tag && r.order == w.order) = false := by
              rw [← hcar, Bool.beq_comm, Bool.beq_comm (a := r.tag), Bool.beq_comm (a := r.order)]
            simp [burstAtReset, hcar']
          · simp [burstAtReset, hb, beq_eq_false_iff_ne.mpr hd]
      · rename_i hb
        refine ⟨Retired.refl s, rfl, rfl, rfl, rfl, rfl, fun c => hsame c fun w hw => ?_⟩
        cases hbody : r.body with
        | writeDone e d => exact absurd hbody (hb e d)
        | _ => simp [burstAtReset, hbody]
    obtain ⟨h1, h2, h3, h4, h5, h6, h7⟩ := hstep
    obtain ⟨k1, k2, k3, k4, k5, k6, k7⟩ := ih (s.emptyResponse r)
    simp only [List.foldl_cons]
    refine ⟨h1.trans k1, k2.trans h2, k3.trans h3, k4.trans h4, k5.trans h5, k6.trans h6, fun c => ?_⟩
    rw [k7 c, h7 c]
    have : ∀ o : Option WriteBurst, (o.map (burstAtReset [r] c)).map (burstAtReset t c) = o.map (burstAtReset (r :: t) c) := by
      intro o
      cases o <;> simp [burstAtReset, Bool.or_assoc]
    simp only [this]

/-- A slot at a reset (R149). -/
def slotEmptied : Slot → Slot
  | .reserved r | .discard r => .discard r
  | .free | .filled _ _ _ => .free

/-- The slots of a list at a reset. -/
theorem emptySlots (l : List SlotIx) : ∀ s : State,
    let u := l.foldl State.emptySlot s
    Retired s u ∧ u.now = s.now ∧ u.link = s.link ∧ u.intake = s.intake ∧ u.pending = s.pending ∧ u.chans = s.chans ∧
    ∀ j : SlotIx, u.ret.slots[j] = if j ∈ l then slotEmptied s.ret.slots[j] else s.ret.slots[j] := by
  induction l with
  | nil => intro s; exact ⟨Retired.refl s, rfl, rfl, rfl, rfl, rfl, fun j => by simp⟩
  | cons i t ih =>
    intro s
    have hstep : Retired s (s.emptySlot i) ∧ (s.emptySlot i).now = s.now ∧ (s.emptySlot i).link = s.link ∧
        (s.emptySlot i).intake = s.intake ∧ (s.emptySlot i).pending = s.pending ∧ (s.emptySlot i).chans = s.chans ∧
        ∀ j : SlotIx, (s.emptySlot i).ret.slots[j] = if j = i then slotEmptied s.ret.slots[j] else s.ret.slots[j] := by
      have hset : ∀ (x : Slot) (j : SlotIx), (s.ret.slots.set i x)[j] = if j = i then x else s.ret.slots[j] := by
        intro x j
        by_cases h : j = i
        · subst h; simp
        · have : i.val ≠ j.val := fun e => h (Fin.ext e.symm)
          simp [h, this]
      unfold State.emptySlot
      split
      · rename_i r d p hsl
        refine ⟨Retired.trans (t := s.setSlot i .free) (Retired.of_eq rfl rfl) (retired_retire _ _), by simp [State.setSlot],
          by simp [State.setSlot], by simp [State.setSlot], by simp [State.setSlot], by simp [State.setSlot], fun j => ?_⟩
        rw [retire_slots]
        refine (hset .free j).trans ?_
        by_cases h : j = i
        · subst h; rw [if_pos rfl, if_pos rfl, hsl]; rfl
        · rw [if_neg h, if_neg h]
      · rename_i r hsl
        refine ⟨Retired.of_eq rfl rfl, rfl, rfl, rfl, rfl, rfl, fun j => ?_⟩
        refine (hset (.discard r) j).trans ?_
        by_cases h : j = i
        · subst h; rw [if_pos rfl, if_pos rfl, hsl]; rfl
        · rw [if_neg h, if_neg h]
      · rename_i h1 h2
        refine ⟨Retired.refl s, rfl, rfl, rfl, rfl, rfl, fun j => ?_⟩
        by_cases h : j = i
        · subst h
          rw [if_pos rfl]
          cases hsl : s.ret.slots[j] with
          | free => rfl
          | discard r => rfl
          | reserved r => exact absurd hsl (h2 r)
          | filled r d p => exact absurd hsl (h1 r d p)
        · rw [if_neg h]
    obtain ⟨h1, h2, h3, h4, h5, h6, h7⟩ := hstep
    obtain ⟨k1, k2, k3, k4, k5, k6, k7⟩ := ih (s.emptySlot i)
    simp only [List.foldl_cons]
    refine ⟨h1.trans k1, k2.trans h2, k3.trans h3, k4.trans h4, k5.trans h5, k6.trans h6, fun j => ?_⟩
    rw [k7 j, h7 j]
    have hidem : ∀ x, slotEmptied (slotEmptied x) = slotEmptied x := by intro x; cases x <;> rfl
    by_cases hi : j = i
    · rw [if_pos hi, if_pos (List.mem_cons.mpr (Or.inl hi))]
      split
      · exact hidem _
      · rfl
    · rw [if_neg hi]
      by_cases ht : j ∈ t
      · rw [if_pos ht, if_pos (List.mem_cons_of_mem _ ht)]
      · rw [if_neg ht, if_neg fun h => (List.mem_cons.mp h).elim hi ht]

/-- What the emptying of the Return Unit does (R149). -/
theorem emptyReturn_frame (s : State) :
    let u := s.emptyReturn
    Retired s u ∧ u.now = s.now ∧ u.link = s.link ∧ u.intake = s.intake ∧ u.pending = s.pending ∧
    u.ret.queue = [] ∧ u.ret.noticeWait = 0 ∧ (∀ j : StreamIx, u.ret.nextToSend[j] = 0) ∧
    (∀ j : SlotIx, u.ret.slots[j] = slotEmptied s.ret.slots[j]) ∧
    ∀ c, u.chan c = { s.chan c with writeBurst := (s.chan c).writeBurst.map (burstAtReset s.ret.queue c) } := by
  obtain ⟨h1, h2, h3, h4, h5, h6, h7⟩ := emptyResponses s.ret.queue s
  obtain ⟨k1, k2, k3, k4, k5, k6, k7⟩ := emptySlots slotIxs (s.ret.queue.foldl State.emptyResponse s)
  unfold State.emptyReturn
  dsimp only
  generalize slotIxs.foldl State.emptySlot (s.ret.queue.foldl State.emptyResponse s) = w at *
  refine ⟨(h1.trans k1).trans (Retired.of_eq rfl rfl), k2.trans h2, k3.trans h3, k4.trans h4, k5.trans h5, rfl, rfl,
    fun j => ?_, fun j => ?_, fun c => ?_⟩
  · simp
  · refine (k7 j).trans ?_
    rw [if_pos (show j ∈ slotIxs from List.mem_finRange j), h6]
  · refine Eq.trans ?_ (h7 c)
    rw [State.chan, State.chan, ← k6]
    rfl

/-- What the discard of both pools and the emptying of the Return Unit do together, where no flush waits (R60, R149). -/
theorem discards_frame {s : State} (hs : ∀ i, (s.stream i).flushes = []) :
    let u := ((s.discardPool 0).discardPool 1).emptyReturn
    Retired s u ∧ u.now = s.now ∧ u.link = s.link ∧ u.intake = s.intake ∧ u.pending = s.pending ∧
    u.ret.queue = [] ∧ u.ret.noticeWait = 0 ∧ (∀ j : StreamIx, u.ret.nextToSend[j] = 0) ∧ SlotsReset s u ∧
    ∀ c, (∀ b, (u.chan c).bank b = bankEmptied ((s.chan c).bank b) s.now (s.chan c).settings.rowHold) ∧
      u.chan c = { s.chan c with
        pool := [], banks := (u.chan c).banks
        writeBurst := (s.chan c).writeBurst.map (burstAtReset s.ret.queue c) } := by
  obtain ⟨a1, a2, a3, a4, a5, a6, a7, a8, a9, a10, a11⟩ := discardPool_frame 0 hs
  obtain ⟨b1, b2, b3, b4, b5, b6, b7, b8, b9, b10, b11⟩ := discardPool_frame (s := s.discardPool 0) 1
    (fun i => by rw [State.stream, a4]; exact hs i)
  obtain ⟨c1, c2, c3, c4, c5, c6, c7, c8, c9, c10⟩ := emptyReturn_frame ((s.discardPool 0).discardPool 1)
  have e1 : (s.discardPool 0).chan 1 = s.chan 1 := a11 1 (by decide)
  have e0 : ((s.discardPool 0).discardPool 1).chan 0 = (s.discardPool 0).chan 0 := b11 0 (by decide)
  refine ⟨(a1.trans b1).trans c1, c2.trans (b2.trans a2), c3.trans (b3.trans a3), c4.trans (b4.trans a4),
    c5.trans (b5.trans a5), c6, c7, c8, fun j => ⟨?_, ?_⟩, fun c => ?_⟩
  · rintro ⟨c, e, he, hk⟩
    rw [c9 j]
    by_cases h1 : ∃ e ∈ (s.chan 1).pool, e.kind = .read j
    · rw [b7 j (by rw [e1]; exact h1)]; rfl
    · have h0 : ∃ e ∈ (s.chan 0).pool, e.kind = .read j := by
        match c with
        | 0 => exact ⟨e, he, hk⟩
        | 1 => exact absurd ⟨e, he, hk⟩ h1
      rw [b8 j (by rw [e1]; simpa using h1), a7 j h0]; rfl
  · intro h
    rw [c9 j, b8 j (by rw [e1]; exact h 1), a8 j (h 0)]
    cases s.ret.slots[j] <;> rfl
  · have hq : ((s.discardPool 0).discardPool 1).ret.queue = s.ret.queue := b6.trans a6
    have hc := c10 c
    rw [hq] at hc
    generalize ((s.discardPool 0).discardPool 1).emptyReturn = u at *
    have hw : ∀ c, ((s.discardPool 0).discardPool 1).chan c = { s.chan c with
        pool := [], banks := (((s.discardPool 0).discardPool 1).chan c).banks } ∧
        ∀ b, (((s.discardPool 0).discardPool 1).chan c).bank b =
          bankEmptied ((s.chan c).bank b) s.now (s.chan c).settings.rowHold := by
      refine Fin.forall_fin_two.mpr ⟨?_, ?_⟩
      · rw [e0]; exact ⟨a10, a9⟩
      · rw [e1] at b10 b9
        rw [a2] at b9
        exact ⟨b10, b9⟩
    obtain ⟨hw1, hw2⟩ := hw c
    refine ⟨fun b => ?_, ?_⟩
    · rw [hc]; exact hw2 b
    · rw [hc, hw1]

end Sys2Proof.Laws
end

