-- ==== Sys2Proof/Laws/Selection.lean ====
section
/-! SUPPORT. What a grant of the command selector says, once: the two places a grant can come from, which entry of the
pool a serving command is for, and each of the selector's conditions as the statements say it (Safety.lean). -/

namespace Sys2Proof.Laws

open Sys2Proof.Machine Sys2Proof.Safety

/-- A hit of a scan is the answer for some entry, given the entries before it and its position. -/
theorem scanPool_some {α : Type} {f : List PoolEntry → Nat → PoolEntry → Option α} {g : α} :
    ∀ {l older : List PoolEntry} {i : Nat}, scanPool f older i l = some g →
      ∃ k e, l[k]? = some e ∧ f (older ++ l.take k) (i + k) e = some g := by
  intro l
  induction l with
  | nil => intro older i h; simp [scanPool] at h
  | cons e t ih =>
    intro older i h
    unfold scanPool at h
    split at h
    · rename_i g' hg
      exact ⟨0, e, rfl, by simpa [hg] using h⟩
    · obtain ⟨k, e', hk, hf⟩ := ih h
      exact ⟨k + 1, e', by simpa using hk, by simpa [Nat.add_assoc, Nat.add_comm 1 k] using hf⟩

theorem orGrant_some {a b : Option Grant} {g : Grant} (h : orGrant a b = some g) : a = some g ∨ b = some g := by
  cases a with
  | none => exact Or.inr h
  | some x => exact Or.inl h

/-- A grant comes with no doze_exit wait and no operation in progress, and is a maintenance grant with every bank CLOSED
or a serving grant in a state that serves. -/
theorem grant_cases {x : Channel} {now : Nat} {b : Band} {g : Grant} (h : x.grant now b = some g) :
    x.dozeExit.isRunning = false ∧ x.maint = none ∧
      ((x.allClosed = true ∧ x.maintGrant = some g) ∨ (x.serves = true ∧ x.serveGrant now b = some g)) := by
  unfold Channel.grant at h
  split at h
  · simp at h
  · rename_i hn
    simp only [Bool.or_eq_true, not_or, Bool.not_eq_true, Option.isSome_eq_false_iff, Option.isNone_iff_eq_none] at hn
    refine ⟨hn.1, hn.2, ?_⟩
    rcases orGrant_some h with h | h
    · split at h
      · rename_i hc; exact Or.inl ⟨hc, h⟩
      · simp at h
    · split at h
      · rename_i hc; exact Or.inr ⟨hc, h⟩
      · simp at h

/-- The maintenance grants, each with the condition that its rule gives it. -/
theorem maintGrant_cases {x : Channel} {g : Grant} (h : x.maintGrant = some g) :
    (g = .refresh false ∧ x.refreshAllowed = true ∧ x.urgent = true) ∨
    (g = .settingsWrite ∧ x.settingsWriteWaits = true) ∨
    (g = .retentionEntry ∧ x.retentionMay = true) ∨
    (g = .longTrim ∧ x.longTrimMay = true ∧ x.urgent = false) ∨
    (g = .shortTrim ∧ x.shortTrimMay = true ∧ x.urgent = false) ∨
    (g = .refresh false ∧ x.nonUrgentMay = true) ∨
    (g = .refresh true ∧ x.pullInMay = true) := by
  unfold Channel.maintGrant at h
  repeat' split at h
  all_goals simp_all

/-- The serving grants: under a force only a close; else an entry's next step, a row hit, or a close or an open for the
oldest entry of a bank. -/
theorem serveGrant_cases {x : Channel} {now : Nat} {b : Band} {g : Grant} (h : x.serveGrant now b = some g) :
    (x.force = true ∧ x.forcedClose = some g) ∨
    (x.force = false ∧
      ((∃ k e, x.pool[k]? = some e ∧
          (x.starvedStep now b (x.pool.take k) k e = some g ∨ x.hitStep now (x.pool.take k) k e = some g ∨
            x.closeStep (x.pool.take k) k e = some g ∨ x.openStep b (x.pool.take k) k e = some g)) ∨
        x.closeIdle = some g)) := by
  unfold Channel.serveGrant at h
  split at h
  · rename_i hf; exact Or.inl ⟨hf, h⟩
  · rename_i hf
    refine Or.inr ⟨by simpa using hf, ?_⟩
    rcases orGrant_some h with h | h
    · obtain ⟨k, e, hk, he⟩ := scanPool_some h
      exact Or.inl ⟨k, e, hk, Or.inl (by simpa using he)⟩
    rcases orGrant_some h with h | h
    · obtain ⟨k, e, hk, he⟩ := scanPool_some h
      exact Or.inl ⟨k, e, hk, Or.inr (Or.inl (by simpa using he))⟩
    rcases orGrant_some h with h | h
    · obtain ⟨k, e, hk, he⟩ := scanPool_some h
      exact Or.inl ⟨k, e, hk, Or.inr (Or.inr (Or.inl (by simpa using he)))⟩
    rcases orGrant_some h with h | h
    · exact Or.inr h
    · obtain ⟨k, e, hk, he⟩ := scanPool_some h
      exact Or.inl ⟨k, e, hk, Or.inr (Or.inr (Or.inr (by simpa using he)))⟩

/-- A maintenance grant is none of the serving commands. -/
theorem maintGrant_not_serving {x : Channel} {g : Grant} (h : x.maintGrant = some g) :
    (∀ i, g ≠ .column i) ∧ (∀ b, g ≠ .closeBank b) ∧ ∀ b row, g ≠ .openRow b row := by
  rcases maintGrant_cases h with h | h | h | h | h | h | h <;> simp [h.1]

/-- A column grant is for the entry at its position: its column command is eligible, and no force is in effect. -/
theorem grant_column {x : Channel} {now i : Nat} {b : Band} (h : x.grant now b = some (.column i)) :
    x.serves = true ∧ x.force = false ∧
      ∃ e, x.pool[i]? = some e ∧ x.columnEligible now (x.pool.take i) e = true := by
  obtain ⟨-, -, h⟩ := grant_cases h
  rcases h with ⟨-, h⟩ | ⟨hs, h⟩
  · exact absurd rfl ((maintGrant_not_serving h).1 i)
  refine ⟨hs, ?_⟩
  rcases serveGrant_cases h with ⟨-, h⟩ | ⟨hf, h⟩
  · simp [Channel.forcedClose] at h
  refine ⟨hf, ?_⟩
  rcases h with ⟨k, e, hk, h | h | h | h⟩ | h
  · unfold Channel.starvedStep at h
    repeat' split at h
    all_goals simp_all
  · unfold Channel.hitStep at h
    split at h <;> simp_all
  · unfold Channel.closeStep at h
    split at h <;> simp_all
  · unfold Channel.openStep at h
    split at h <;> simp_all
  · simp [Channel.closeIdle] at h

/-- An open grant is for the row of an entry of the pool, with the bank's and the channel's conditions met. -/
theorem grant_open {x : Channel} {now row : Nat} {b : Band} {k : BankIx} (h : x.grant now b = some (.openRow k row)) :
    x.serves = true ∧ x.force = false ∧ (x.bank k).mayOpen = true ∧ x.opensAllowed b = true ∧
      ∃ e ∈ x.pool, e.bank = k ∧ e.row = row := by
  obtain ⟨-, -, h⟩ := grant_cases h
  rcases h with ⟨-, h⟩ | ⟨hs, h⟩
  · exact absurd rfl ((maintGrant_not_serving h).2.2 k row)
  refine ⟨hs, ?_⟩
  rcases serveGrant_cases h with ⟨-, h⟩ | ⟨hf, h⟩
  · simp [Channel.forcedClose] at h
  refine ⟨hf, ?_⟩
  rcases h with ⟨n, e, hk, h | h | h | h⟩ | h
  · have hm := List.mem_of_getElem? hk
    unfold Channel.starvedStep at h
    repeat' split at h
    all_goals simp_all
    exact ⟨e, hm, h.1, h.2⟩
  · unfold Channel.hitStep at h
    split at h <;> simp_all
  · unfold Channel.closeStep at h
    split at h <;> simp_all
  · have hm := List.mem_of_getElem? hk
    unfold Channel.openStep at h
    split at h
    · simp_all
      exact ⟨e, hm, h.1, h.2⟩
    · simp_all
  · simp [Channel.closeIdle] at h

/-- A close grant is for a bank whose own conditions allow it. -/
theorem grant_close {x : Channel} {now : Nat} {b : Band} {k : BankIx} (h : x.grant now b = some (.closeBank k)) :
    x.serves = true ∧ (x.bank k).mayClose = true := by
  obtain ⟨-, -, h⟩ := grant_cases h
  rcases h with ⟨-, h⟩ | ⟨hs, h⟩
  · exact absurd rfl ((maintGrant_not_serving h).2.1 k)
  refine ⟨hs, ?_⟩
  rcases serveGrant_cases h with ⟨-, h⟩ | ⟨-, h⟩
  · simp only [Channel.forcedClose, Option.map_eq_some_iff] at h
    obtain ⟨a, ha, he⟩ := h
    injection he with he
    subst he
    exact List.find?_some (p := fun b => (x.bank b).mayClose) ha
  rcases h with ⟨n, e, hk, h | h | h | h⟩ | h
  · unfold Channel.starvedStep at h
    repeat' split at h
    all_goals simp_all
  · unfold Channel.hitStep at h
    split at h <;> simp_all
  · unfold Channel.closeStep at h
    split at h <;> simp_all
  · unfold Channel.openStep at h
    split at h <;> simp_all
  · simp only [Channel.closeIdle, Option.map_eq_some_iff] at h
    obtain ⟨a, ha, he⟩ := h
    injection he with he
    subst he
    have := List.find?_some ha
    simp at this
    exact this.1.1

/-! ### The model's conditions as the statements say them -/

/-- A scan answers what its function answers for the first entry that it answers. -/
theorem scanPool_first {α : Type} {f : List PoolEntry → Nat → PoolEntry → Option α} {g : α} :
    ∀ {l older : List PoolEntry} {n i : Nat} {e : PoolEntry}, l[i]? = some e → f (older ++ l.take i) (n + i) e = some g →
      (∀ j o, j < i → l[j]? = some o → f (older ++ l.take j) (n + j) o = none) → scanPool f older n l = some g := by
  intro l
  induction l with
  | nil => intro older n i e h; simp at h
  | cons a t ih =>
    intro older n i e he hf hn
    unfold scanPool
    cases i with
    | zero =>
      simp only [List.getElem?_cons_zero, Option.some.injEq] at he
      subst he
      simp only [List.take_zero, List.append_nil, Nat.add_zero] at hf
      rw [hf]
    | succ i =>
      have h0 := hn 0 a (by omega) rfl
      simp only [List.take_zero, List.append_nil, Nat.add_zero] at h0
      rw [h0]
      refine ih (by simpa using he) (by simpa [Nat.add_assoc, Nat.add_comm 1 i] using hf) fun j o hj ho => ?_
      have := hn (j + 1) o (by omega) (by simpa using ho)
      simpa [Nat.add_assoc, Nat.add_comm 1 j] using this

/-- A scan answers nothing when its function answers for no entry. -/
theorem scanPool_none {α : Type} {f : List PoolEntry → Nat → PoolEntry → Option α} :
    ∀ {l older : List PoolEntry} {n : Nat},
      (∀ i e, l[i]? = some e → f (older ++ l.take i) (n + i) e = none) → scanPool f older n l = none := by
  intro l
  induction l with
  | nil => intro older n _; rfl
  | cons a t ih =>
    intro older n hn
    unfold scanPool
    have h0 := hn 0 a rfl
    simp only [List.take_zero, List.append_nil, Nat.add_zero] at h0
    rw [h0]
    refine ih fun i e he => ?_
    have := hn (i + 1) e (by simpa using he)
    simpa [Nat.add_assoc, Nat.add_comm 1 i] using this

/-- What a scan over the pool answers, when its function says what `stepOf` says. -/
theorem scanPool_oldest {x : Channel} {f : List PoolEntry → Nat → PoolEntry → Option Grant}
    {stepOf : Nat → PoolEntry → Grant → Prop} (hs : ∀ i e g, f (x.pool.take i) i e = some g ↔ stepOf i e g) :
    (∀ g, Oldest x stepOf g → scanPool f [] 0 x.pool = some g) ∧
    (NoEntry x stepOf → scanPool f [] 0 x.pool = none) := by
  have hnone : ∀ i e, (∀ g, ¬stepOf i e g) → f (x.pool.take i) i e = none := fun i e h =>
    Option.eq_none_iff_forall_ne_some.mpr fun g hg => h g ((hs i e g).mp hg)
  refine ⟨fun g ⟨i, e, he, hg, hn⟩ => ?_, fun hn => ?_⟩
  · refine scanPool_first he (by simpa using (hs i e g).mpr hg) fun j o hj ho => ?_
    simpa using hnone j o fun g' => hn j o g' hj ho
  · refine scanPool_none fun i e he => ?_
    simpa using hnone i e fun g' => hn i e g' he


theorem mayClose_iff (k : Bank) : k.mayClose = true ↔ MayClose k := by
  unfold Bank.mayClose Bank.isOpen MayClose
  cases hk : k.state <;> simp [and_assoc]

theorem mayOpen_iff (s : State) (x : Channel) (b : BankIx) :
    ((x.bank b).mayOpen = true ∧ x.opensAllowed s.band = true) ↔ MayOpen s x b := by
  unfold Bank.mayOpen Channel.opensAllowed windowLimit State.band MayOpen
  cases hb : s.mgmt.temp.band <;> simp [and_assoc]

/-- No older starved entry of the bank, as a Bool and as a statement. -/
theorem noOlderStarved_iff (l : List PoolEntry) (e : PoolEntry) :
    (l.any fun o => o.bank == e.bank && o.starved) = false ↔ ∀ o ∈ l, o.bank = e.bank → o.starved = false := by
  rw [List.any_eq_false]
  exact forall₂_congr fun o _ => by simp

theorem noneHolds_iff (l : List PoolEntry) (e : PoolEntry) :
    l.any e.heldBy = false ↔ ∀ o ∈ l, o.bank = e.bank → o.row = e.row → o.col = e.col →
      o.isWrite = false ∧ e.isWrite = false := by
  rw [List.any_eq_false]
  refine forall₂_congr fun o _ => ?_
  simp [PoolEntry.heldBy, PoolEntry.sameLine]

theorem columnEligible_iff (s : State) (x : Channel) (i : Nat) (e : PoolEntry) :
    x.columnEligible s.now (x.pool.take i) e = true ↔ MayColumn s x i e := by
  unfold Channel.columnEligible MayColumn
  simp only [Bool.and_eq_true, Bool.not_eq_true', beq_iff_eq, noneHolds_iff, noOlderStarved_iff]
  cases hw : e.isWrite
  · simp [Channel.busAllowsRead]; tauto
  · simp [Channel.busAllowsWrite]; tauto

theorem some_ite_iff {α : Type} {p : Prop} [Decidable p] {a g : α} :
    (if p then some a else none) = some g ↔ p ∧ g = a := by
  by_cases h : p <;> simp [h, eq_comm]

theorem starvedStep_iff (s : State) (x : Channel) (i : Nat) (e : PoolEntry) (g : Grant) :
    x.starvedStep s.now s.band (x.pool.take i) i e = some g ↔ StarvedStep s x i e g := by
  unfold Channel.starvedStep StarvedStep
  simp only [Bool.and_eq_true, Bool.not_eq_true', noOlderStarved_iff]
  by_cases h : e.starved = true ∧ ∀ o ∈ x.pool.take i, o.bank = e.bank → o.starved = false
  · rw [if_pos h, and_iff_right h.1, and_iff_right h.2]
    cases hk : (x.bank e.bank).state with
    | closed =>
      have n1 : ¬MayColumn s x i e := fun h => by simp [MayColumn, hk] at h
      have n2 : ¬MayClose (x.bank e.bank) := fun h => by simp [MayClose, hk] at h
      simp only [n1, n2, false_and, false_or, some_ite_iff, mayOpen_iff]
    | opened r =>
      have n3 : ¬MayOpen s x e.bank := fun h => by simp [MayOpen, hk] at h
      by_cases hr : r = e.row
      · subst hr
        simp only [if_true, ne_eq, not_true, false_and, and_false, or_false, n3, some_ite_iff, columnEligible_iff]
      · have n1 : ¬MayColumn s x i e := fun h => by simp [MayColumn, hk, hr] at h
        simp only [hr, if_false, n1, n3, false_and, false_or, or_false, ne_eq, BankState.opened.injEq,
          not_false_eq_true, true_and, some_ite_iff, mayClose_iff]
    | opening r =>
      have n1 : ¬MayColumn s x i e := fun h => by simp [MayColumn, hk] at h
      have n2 : ¬MayClose (x.bank e.bank) := fun h => by simp [MayClose, hk] at h
      have n3 : ¬MayOpen s x e.bank := fun h => by simp [MayOpen, hk] at h
      simp only [n1, n2, n3, false_and, or_false, reduceCtorEq]
    | closing r =>
      have n1 : ¬MayColumn s x i e := fun h => by simp [MayColumn, hk] at h
      have n2 : ¬MayClose (x.bank e.bank) := fun h => by simp [MayClose, hk] at h
      have n3 : ¬MayOpen s x e.bank := fun h => by simp [MayOpen, hk] at h
      simp only [n1, n2, n3, false_and, or_false, reduceCtorEq]
  · rw [if_neg h]
    simp only [reduceCtorEq, false_iff]
    exact fun h' => h ⟨h'.1, h'.2.1⟩

theorem hitStep_iff (s : State) (x : Channel) (i : Nat) (e : PoolEntry) (g : Grant) :
    x.hitStep s.now (x.pool.take i) i e = some g ↔ HitStep s x i e g := by
  rw [Channel.hitStep, some_ite_iff, columnEligible_iff, HitStep]

theorem oldestOfBank_iff (older : List PoolEntry) (e : PoolEntry) :
    oldestOfBank older e = true ↔ ∀ o ∈ older, o.bank ≠ e.bank := by
  simp [oldestOfBank]

theorem hasHit_iff (x : Channel) (b : BankIx) :
    x.hasHit b = false ↔ ∀ o ∈ x.pool, o.bank = b → (x.bank b).state ≠ .opened o.row := by
  simp [Channel.hasHit]

theorem closeStep_iff (x : Channel) (i : Nat) (e : PoolEntry) (g : Grant) :
    x.closeStep (x.pool.take i) i e = some g ↔ ClearStep x i e g := by
  rw [Channel.closeStep, some_ite_iff, ClearStep, ClosesFreely]
  simp only [Bool.and_eq_true, Bool.not_eq_true', mayClose_iff, hasHit_iff, oldestOfBank_iff]
  tauto

theorem openStep_iff (s : State) (x : Channel) (i : Nat) (e : PoolEntry) (g : Grant) :
    x.openStep s.band (x.pool.take i) i e = some g ↔ OpenStep s x i e g := by
  rw [Channel.openStep, some_ite_iff, OpenStep]
  simp only [Bool.and_eq_true, oldestOfBank_iff, ← mayOpen_iff]
  tauto

theorem bankIxs_getElem? : ∀ j : BankIx, bankIxs[j.val]? = some j := by decide

/-- What a search of the banks, lowest first, answers. -/
theorem lowestBank_iff {p : BankIx → Bool} {q : BankIx → Prop} (h : ∀ b, p b = true ↔ q b) :
    (∀ b, Lowest q b → (bankIxs.find? p).map Grant.closeBank = some (.closeBank b)) ∧
    ((∀ b, ¬q b) → (bankIxs.find? p).map Grant.closeBank = none) := by
  refine ⟨fun b ⟨hb, hl⟩ => ?_, fun hn => ?_⟩
  · have hf : bankIxs.find? p = some b := by
      have hp : p b = true := (h b).mpr hb
      have hm : ∀ a, a < b → p a = false := fun a ha => by
        simpa using (mt (h a).mp (hl a ha))
      rw [List.find?_eq_some_iff_getElem]
      refine ⟨hp, b.val, b.isLt, Option.some.inj ((List.getElem?_eq_getElem _).symm.trans (bankIxs_getElem? b)),
        fun j hj => ?_⟩
      have hj8 : j < 8 := Nat.lt_trans hj b.isLt
      have he : bankIxs[j]'hj8 = ⟨j, hj8⟩ :=
        Option.some.inj ((List.getElem?_eq_getElem _).symm.trans (bankIxs_getElem? ⟨j, hj8⟩))
      have hf : (!p ⟨j, hj8⟩) = true := by rw [hm ⟨j, hj8⟩ hj]; rfl
      exact (congrArg (fun a => !p a) he).trans hf
    rw [hf]; rfl
  · have : bankIxs.find? p = none := by
      rw [List.find?_eq_none]
      exact fun b _ => mt (h b).mp (hn b)
    rw [this]; rfl

theorem closeIdle_iff (x : Channel) (b : BankIx) :
    ((x.bank b).mayClose && !x.hasHit b && ((x.bank b).holdExpired
      || ((x.state == .holding || x.state == .retainPending) && (x.bankList b).isEmpty))) = true ↔ IdleClose x b := by
  unfold IdleClose ClosesFreely Channel.bankList
  simp only [Bool.and_eq_true, Bool.not_eq_true', mayClose_iff, hasHit_iff, Bool.or_eq_true, beq_iff_eq,
    List.isEmpty_iff, List.filter_eq_nil_iff, List.mem_cons, List.not_mem_nil, or_false]

theorem force_iff (x : Channel) : x.force = true ↔ Forced x := by
  simp [Channel.force, or_assoc]

/-- The end of a hold drain, in the words of the statements (R125). -/
theorem drained_iff (x : Channel) : x.drained = true ↔ DrainConditions x := by
  simp only [Channel.drained, DrainConditions, AtRest, Bool.and_eq_true, Bool.not_eq_true', beq_iff_eq, List.isEmpty_iff]
  tauto

theorem refreshAllowed_iff (x : Channel) : x.refreshAllowed = true ↔ RefreshState x := by
  unfold Channel.refreshAllowed RefreshState
  cases hx : x.state <;> simp

theorem trimIsDue_iff (x : Channel) : x.trimIsDue = true ↔ TrimDue x := by
  simp [Channel.trimIsDue, Channel.sequenceTrimWaits, or_assoc]


theorem urgentMay_iff (x : Channel) : (x.refreshAllowed && x.urgent) = true ↔ UrgentMay x := by
  rw [Bool.and_eq_true, refreshAllowed_iff]

theorem settingsMay_iff (x : Channel) : x.settingsWriteWaits = true ↔ SettingsMay x := by
  unfold Channel.settingsWriteWaits SettingsMay
  simp only [Bool.or_eq_true, Bool.and_eq_true, beq_iff_eq, and_assoc]

theorem retentionMay_iff (x : Channel) : x.retentionMay = true ↔ RetentionMay x := by
  unfold Channel.retentionMay RetentionMay
  simp only [Bool.and_eq_true, Bool.not_eq_true', beq_iff_eq, List.isEmpty_iff, and_assoc]

theorem longTrimMay_iff (x : Channel) : (x.longTrimMay && !x.urgent) = true ↔ LongTrimMay x := by
  unfold Channel.longTrimMay Channel.sequenceTrimWaits LongTrimMay LongTrimWaits
  simp only [Bool.or_eq_true, Bool.and_eq_true, Bool.not_eq_true', beq_iff_eq, List.mem_cons, List.not_mem_nil,
    or_false]
  exact and_comm

theorem shortTrimMay_iff (x : Channel) : (x.shortTrimMay && !x.urgent) = true ↔ ShortTrimMay x := by
  unfold Channel.shortTrimMay ShortTrimMay
  simp only [Bool.or_eq_true, Bool.and_eq_true, Bool.not_eq_true', beq_iff_eq, List.mem_cons, List.not_mem_nil,
    or_false, or_assoc]
  exact and_comm

theorem trimNotDue_iff (x : Channel) : x.trimIsDue = false ↔ ¬TrimDue x := by
  rw [← trimIsDue_iff, Bool.not_eq_true]

theorem nonUrgentMay_iff (x : Channel) : x.nonUrgentMay = true ↔ NonUrgentMay x := by
  unfold Channel.nonUrgentMay NonUrgentMay
  simp only [Bool.and_eq_true, Bool.not_eq_true', refreshAllowed_iff, trimNotDue_iff, decide_eq_true_eq, and_assoc]

theorem pullInMay_iff (x : Channel) : x.pullInMay = true ↔ PullInMay x := by
  unfold Channel.pullInMay PullInMay
  simp only [Bool.and_eq_true, Bool.not_eq_true', refreshAllowed_iff, trimNotDue_iff, decide_eq_true_eq,
    List.isEmpty_iff, bne_iff_ne, and_assoc]

theorem serves_iff (x : Channel) :
    x.serves = true ↔ x.state ∈ [ChanState.active, .holding, .held, .retainPending] := by
  simp [Channel.serves, or_assoc]

/-- With nothing in progress, the grant is the maintenance grant where there is one, else a serving one. -/
theorem grant_of_free {s : State} {c : Chan} (hd : (s.chan c).dozeExit.isRunning = false)
    (hm : (s.chan c).maint = none) :
    s.grant c = orGrant (if (s.chan c).allClosed then (s.chan c).maintGrant else none)
      (if (s.chan c).serves then (s.chan c).serveGrant s.now s.band else none) := by
  simp [State.grant, Channel.grant, hd, hm]

/-- A serving grant is none of the maintenance grants. -/
theorem serveGrant_serving {x : Channel} {now : Nat} {b : Band} {g : Grant} (h : x.serveGrant now b = some g) :
    ¬IsMaintenance g := by
  rcases serveGrant_cases h with ⟨-, h⟩ | ⟨-, ⟨k, e, -, h | h | h | h⟩ | h⟩
  · simp only [Channel.forcedClose, Option.map_eq_some_iff] at h
    obtain ⟨a, -, rfl⟩ := h; simp [IsMaintenance]
  · unfold Channel.starvedStep at h
    repeat' split at h
    all_goals first | (cases h; done) | (cases h; simp [IsMaintenance])
  · unfold Channel.hitStep at h
    repeat' split at h
    all_goals first | (cases h; done) | (cases h; simp [IsMaintenance])
  · unfold Channel.closeStep at h
    repeat' split at h
    all_goals first | (cases h; done) | (cases h; simp [IsMaintenance])
  · unfold Channel.openStep at h
    repeat' split at h
    all_goals first | (cases h; done) | (cases h; simp [IsMaintenance])
  · simp only [Channel.closeIdle, Option.map_eq_some_iff] at h
    obtain ⟨a, -, rfl⟩ := h; simp [IsMaintenance]

end Sys2Proof.Laws
end

