-- ==== Sys2Proof/Laws/Tick.lean ====
section
/-! SUPPORT. The tick of an idle queue (log entry 2): each of the model's questions whether something is due, as the
statements say it (Safety.lean). -/

namespace Sys2Proof.Laws

open Sys2Proof.Machine Sys2Proof.Safety

theorem anyDue_iff (k : Bank) (now : Nat) : k.anyDue now = true ↔ BankWork k now := by
  unfold Bank.anyDue BankWork Bank.openDue Bank.closeDue
  cases hk : k.state <;> simp [or_assoc]

theorem timerDue_iff (x : Channel) (now : Nat) : x.timerDue now = true ↔
    (∃ t ∈ [x.columnSpacing, x.writeToRead, x.readToWrite, x.openSpacing, x.interval, x.trimTimer, x.graceTimer,
        x.dozeExit, x.powerupWait, x.retainExitShort, x.retainExitLong], t.due now = true) ∨
      (x.state = .active ∧ x.idleTimer.due now = true) := by
  simp only [Channel.timerDue, Bool.or_eq_true, Bool.and_eq_true, beq_iff_eq, List.mem_cons, List.not_mem_nil, or_false,
    exists_eq_or_imp, exists_eq_left]
  constructor
  · rintro (((((((((((h | h) | h) | h) | h) | h) | h) | h) | h) | h) | h) | h) <;> simp [h]
  · rintro ((h | h | h | h | h | h | h | h | h | h | h) | h) <;> simp [h]

theorem endDue_iff (x : Channel) (now : Nat) : x.endDue now = true ↔
      (∃ w, x.writeBurst = some w ∧ w.expires ≤ now) ∨ (∃ e, x.readBurst = some e ∧ e ≤ now) ∨
      (x.readBurst = none ∧ ∃ r rs, x.issued = r :: rs ∧ r.expires ≤ now) ∨
      (∃ m, x.maint = some m ∧ m.expires ≤ now) ∨ ∃ w ∈ x.window, w.expires ≤ now := by
  have h : x.dataDue now = true ↔ (x.readBurst = none ∧ ∃ r rs, x.issued = r :: rs ∧ r.expires ≤ now) := by
    unfold Channel.dataDue
    cases x.issued <;> simp
  unfold Channel.endDue
  simp only [Bool.or_eq_true, h, or_assoc]
  cases x.writeBurst <;> cases x.readBurst <;> cases x.maint <;> simp

theorem chanDue_iff (s : State) (c : Chan) : s.chanDue c = true ↔ ChanWork s c := by
  have hall : ∀ b : BankIx, b ∈ bankIxs := by decide
  have hb : bankIxs.any (fun b => ((s.chan c).bank b).anyDue s.now) = true ↔
      ∃ b, BankWork ((s.chan c).bank b) s.now := by
    simp only [List.any_eq_true, anyDue_iff]
    exact ⟨fun ⟨b, _, h⟩ => ⟨b, h⟩, fun ⟨b, h⟩ => ⟨b, hall b, h⟩⟩
  unfold State.chanDue ChanWork
  simp only [exists_eq_left, Bool.or_eq_true, timerDue_iff, endDue_iff, hb, Option.isSome_iff_exists, or_assoc]

/-- A READ at the head waits, with nothing changed, or has left the queue. -/
theorem serveRead_waits {s : State} {q : QueuedPacket} {rest : List QueuedPacket} (hq : s.intake.queue = q :: rest)
    (a : HostAddr) : s.readWaits q a = true ↔ s.serveRead q a = s := by
  have hne : ∀ t : State, t.intake.queue = rest → t ≠ s := by
    intro t ht e
    subst e
    rw [hq] at ht
    exact absurd ht (List.cons_ne_self _ _)
  unfold State.readWaits State.serveRead
  cases s.check q.packet.stream a (unaligned a) false with
  | fails code =>
    simp only [Bool.false_eq_true, false_iff]
    exact hne _ (by rw [takeHead_eq_taken hq]; rfl)
  | passes loc =>
    cases s.ret.freeSlot with
    | none => simp
    | some i =>
      by_cases hp : s.poolHasRoom loc.chan = true
      · simp only [hp, Option.isNone_some, Bool.not_true, Bool.or_false, Bool.false_eq_true, if_true, false_iff]
        refine hne _ ?_
        rw [State.acceptRead, State.placeEntry, settle_intake, takeHead_eq_taken hq, State.arrivalAt]
        split <;> simp [State.setSlot, taken]
      · simp [hp]

theorem serveWriteRequest_waits {s : State} {q : QueuedPacket} {rest : List QueuedPacket}
    (hq : s.intake.queue = q :: rest) (a : HostAddr) (en : BitVec 8) (d : Line) :
    s.writeWaits q a en = true ↔ s.serveWriteRequest q a en d = s := by
  have hne : ∀ t : State, t.intake.queue = rest → t ≠ s := by
    intro t ht e
    subst e
    rw [hq] at ht
    exact absurd ht (List.cons_ne_self _ _)
  unfold State.writeWaits State.serveWriteRequest
  cases s.check q.packet.stream a (unaligned a || en == 0#8) true with
  | fails code =>
    simp only [Bool.false_eq_true, false_iff]
    exact hne _ (by rw [takeHead_eq_taken hq]; rfl)
  | passes loc =>
    by_cases hp : s.poolHasRoom loc.chan = true
    · simp only [hp, Bool.not_true, Bool.false_eq_true, if_true, false_iff]
      refine hne _ ?_
      rw [State.acceptWrite, State.placeEntry, settle_intake, takeHead_eq_taken hq, State.arrivalAt]
      split <;> simp [taken]
    · simp [hp]

theorem headDue_iff (s : State) : s.headDue = true ↔ HeadWork s := by
  unfold State.headDue HeadWork
  cases hq : s.intake.queue with
  | nil => simp
  | cons q rest =>
    have hr : ∀ a, requestOf q.packet = .read a → exec .read s = .next (s.serveRead q a) := by
      intro a hr
      simp only [exec, execRead]
      rw [serveHead_of_head (row := .read) (r := .read a) ⟨hq, hr⟩ rfl]
    have hw : ∀ a en d, requestOf q.packet = .write a en d → exec .write s = .next (s.serveWriteRequest q a en d) := by
      intro a en d hr
      simp only [exec, execWrite]
      rw [serveHead_of_head (row := .write) (r := .write a en d) ⟨hq, hr⟩ rfl]
    have key : ∀ P : QueuedPacket → Prop, (∃ q' rest', q :: rest = q' :: rest' ∧ P q') ↔ P q :=
      fun P => ⟨fun ⟨_, _, e, h⟩ => by injection e with e1 e2; rwa [e1], fun h => ⟨q, rest, rfl, h⟩⟩
    rw [key fun q => (∀ a, requestOf q.packet = .read a → exec .read s ≠ .next s) ∧
      (∀ a en d, requestOf q.packet = .write a en d → exec .write s ≠ .next s)]
    dsimp only
    generalize hk : requestOf q.packet = k at hr hw
    cases k with
    | read a =>
      simp only [Request.read.injEq, reduceCtorEq, false_implies, implies_true, and_true, forall_eq', hr a rfl, ne_eq,
        Host.Outcome.next.injEq, ← serveRead_waits hq, Bool.not_eq_true', Bool.not_eq_true]
    | write a en d =>
      have hd := (serveWriteRequest_waits hq a en d).symm
      rw [← Host.Outcome.next.injEq (φ := Fault) (ρ := Refusal), ← hw a en d rfl] at hd
      simp only [Bool.not_eq_true', ← Bool.not_eq_true, ← hd]
      simp only [reduceCtorEq, false_implies, implies_true, true_and]
      exact ⟨fun h _ _ _ _ => h, fun h => h a en d rfl⟩
    | _ => simp

theorem somethingDue_iff (s : State) : s.somethingDue = true ↔ WorkDue s := by
  have h : (∃ c, ChanWork s c) ↔ ChanWork s 0 ∨ ChanWork s 1 := Fin.exists_fin_two
  unfold State.somethingDue WorkDue
  simp only [Bool.or_eq_true, chanDue_iff, headDue_iff, h, or_assoc]

/-- A step with no command waiting is the tick. -/
theorem step_of_empty {s : State} (h : s.pending = []) : step s = .next s.tick := by
  unfold step
  split
  · rfl
  · simp_all

end Sys2Proof.Laws
end

