-- ==== Sys2Proof/Tests/Slice0.lean ====
section
/-! SUPPORT. The model's own tests: the well-formedness checks, worked examples of the spec, and for every statement with
hypotheses a concrete state that meets them. -/

namespace Sys2Proof.Tests

set_option Elab.async false
set_option synthInstance.maxSize 1000

open Sys2Proof Sys2Proof.Machine Sys2Proof.Safety Sys2Proof.Laws

/-! ## Small states -/

/-- The state after a command, from a given state. -/
def after (i : Instr) (s : State) : State :=
  match exec i s with
  | .next t => t
  | _ => s

/-- The state after a list of commands. -/
def afterAll (is : List Instr) (s : State) : State := is.foldl (fun t i => after i t) s

/-- Cold reset, then the link UP with all 64 credits granted and 9 response credits. -/
def upState : State := { State.reset with link := { linkAtReset with state := .up, granted := 64, respCredits := 9 } }

/-- A host packet of stream 0 with tag 5. -/
def pkt (kind : Byte) (payload : List Byte) : Packet := ⟨kind, 0, 5, payload⟩
def readPkt (a : Nat) : Packet := pkt 0x01 (leBytes 5 a ++ [0, 0, 0])
def writePkt (a : Nat) (en : Byte) : Packet := pkt 0x02 (leBytes 5 a ++ [en, 0, 0] ++ leBytes 64 0x0807060504030201)
def flushPkt : Packet := pkt 0x03 []
def mread (t e f : Byte) : Packet := pkt 0x04 [t, e, f, 0]
def mwrite (t e f : Byte) (v : Nat) : Packet := pkt 0x05 ([t, e, f, 0] ++ leBytes 4 v)
def mcmd (code ch : Byte) : Packet := pkt 0x06 [code, ch, 0, 0, 0, 0, 0, 0]
def mcmdArg (code ch : Byte) (v : Nat) : Packet := pkt 0x06 ([code, ch, 1, 0] ++ leBytes 4 v)

/-- The queue entry of a packet with order number 7. -/
def qp (p : Packet) : QueuedPacket := ⟨p, 7⟩

/-- The state with one packet, at the head, its tag outstanding. -/
def headed (s : State) (p : Packet) : State :=
  { s with intake := { s.intake with queue := [qp p], tags := [(p.stream, p.tag)] } }

/-- The state with channel 0 changed. -/
def chan0 (s : State) (f : Channel → Channel) : State := s.modChan 0 f

/-- A channel at rest in a channel state. -/
def inState (st : ChanState) (x : Channel) : Channel := { x with state := st }

/-- Both channels ACTIVE. -/
def activeState : State := (upState.modChan 0 (inState .active)).modChan 1 (inState .active)

/-- The two regions and layouts of the map of file 02, section 2.6.1, after the second commit. -/
def exampleRegions : Vector Region 16 :=
  ((Vector.replicate 16 regionAtReset).set 0 ⟨true, 0x1000000000#40, 0x10000FFFFF#40, 1, 100, 3#4, true⟩).set 1
    ⟨true, 0x1000100000#40, 0x100017FFFF#40, 2, 108, 2#4, false⟩
def exampleLayouts : Vector Layout 4 := ((Vector.replicate 4 layoutAtReset).set 1 ⟨.split, 2⟩).set 2 ⟨.ch1, 0⟩
def exampleMap : MapUnit :=
  { mapAtReset with shadowRegions := exampleRegions, shadowLayouts := exampleLayouts,
                    liveRegions := exampleRegions, liveLayouts := exampleLayouts, epoch := 1 }

/-- Both channels ACTIVE under the example map. -/
def mapState : State := { activeState with map := exampleMap }

/-- A pool entry of channel 0 for bank 2, row 9, column 4. -/
def entry (kind : AccessKind) : PoolEntry := ⟨1, 3, 0, 0, kind, 2, 9, 4, 0, false⟩
def writeEntry : PoolEntry := entry (.write (Vector.replicate 8 0x55#64) 0x81#8)

/-- A pool of `n` WRITE entries. -/
def writePool (n : Nat) : List PoolEntry := List.replicate n writeEntry

/-- A bank with its row open and no timer running. -/
def openBank (row : Nat) : Bank := { bankAtReset with state := .opened row }

/-! ## The well-formedness checks, each with an ill-formed command -/

theorem test_wf_payload_too_long : (Instr.hello (List.replicate 256 0)).wellFormed = false := by decide +kernel
theorem test_wf_payload_longest : (Instr.hello (List.replicate 255 0)).wellFormed = true := by decide +kernel
theorem test_wf_reset_link_too_long : (Instr.resetLink (List.replicate 256 0)).wellFormed = false := by decide +kernel
theorem test_wf_ack_too_long : (Instr.ack (List.replicate 256 0)).wellFormed = false := by decide +kernel
theorem test_wf_nak_too_long : (Instr.nak (List.replicate 256 0)).wellFormed = false := by decide +kernel
theorem test_wf_credit_too_long : (Instr.credit (List.replicate 256 0)).wellFormed = false := by decide +kernel
theorem test_wf_link_control_kind :
    (Instr.sequencedPacketArrival 0 (pkt 0x20 [])).wellFormed = false ∧
    (Instr.sequencedPacketArrival 0 (pkt 0x24 [])).wellFormed = false ∧
    (Instr.sequencedPacketArrival 0 (pkt 0x1F [])).wellFormed = true ∧
    (Instr.sequencedPacketArrival 0 (pkt 0x25 [])).wellFormed = true := by decide +kernel
theorem test_wf_sequenced_too_long :
    (Instr.sequencedPacketArrival 0 (pkt 0x01 (List.replicate 256 0))).wellFormed = false := by decide +kernel
theorem test_wf_word_named_twice :
    (Instr.readColumnCommand 0 [⟨3, 1, 0⟩, ⟨3, 2, 0⟩]).wellFormed = false ∧
    (Instr.readColumnCommand 0 [⟨3, 1, 0⟩, ⟨4, 2, 0⟩]).wellFormed = true := by decide +kernel

/-! ## The interface -/

theorem test_no_word_decodes : decodeTableWord 8 0 = none := rfl
theorem test_fetch_word_unchanged : (State.reset.withFetchWord 8 0) = State.reset := rfl
theorem test_reset_queue_empty : State.reset.pending = [] := rfl
theorem test_idle_step_passes_time : step State.reset = .next { State.reset with now := 1 } := rfl
theorem test_step_runs_front :
    (match step { upState with pending := [.hello [], .helloSend] } with
      | .next t => (t.link.state, t.pending)
      | _ => (.down, [])) = (.training, [.helloSend]) := by decide +kernel

/-! ## The bytes of packets (file 11) -/

theorem test_crc_of_digits : crc32 [0x31, 0x32, 0x33, 0x34, 0x35, 0x36, 0x37, 0x38, 0x39] = 0xCBF43926#32 := by
  decide +kernel
theorem test_receive_own_ack : receive (TxPacket.ack 11).bytes = .ack [11, 0, 0, 0] := by decide +kernel
theorem test_receive_hello : receive TxPacket.hello.bytes = .hello [] := by decide +kernel
theorem test_receive_flush :
    receive (framed 0x03 2 63 200 []) = .sequencedPacketArrival 200 ⟨0x03, 2, 63, []⟩ := by decide +kernel
theorem test_receive_damaged : receive [0x20, 0, 0, 0, 1, 2, 3, 4] = .packetCrcFailure := by decide +kernel
theorem test_receive_wrong_length : receive ((TxPacket.ack 11).bytes ++ [0]) = .packetCrcFailure := by decide +kernel

/-! ## Worked examples of the spec -/

/-- File 10, section 10.6: a damaged packet. -/
def damageStart : State :=
  { upState with
    link := { linkAtReset with state := .up, expected := 10, granted := 61 }
    intake := { intakeAtReset with queue := [qp flushPkt, qp flushPkt, qp flushPkt] } }
def arrivalOf (n : Nat) : Instr := .sequencedPacketArrival (BitVec.ofNat 8 n) ⟨0x03, 1, ⟨n % 64, by omega⟩, []⟩

theorem test_damaged_packet_first_half :
    (let t := afterAll [arrivalOf 10, arrivalOf 11, .ackSend, .packetCrcFailure, .nakSend, arrivalOf 13, arrivalOf 14]
        damageStart
     (t.link.expected, t.link.nakOutstanding, t.link.nakPending, t.intake.queue.length, t.link.granted, t.link.lastTx)) =
      (12, true, none, 5, 59, some (.nak 12)) := by decide +kernel
theorem test_damaged_packet_whole :
    (let t := afterAll [arrivalOf 10, arrivalOf 11, .ackSend, .packetCrcFailure, .nakSend, arrivalOf 13, arrivalOf 14,
        arrivalOf 12, arrivalOf 13, arrivalOf 14, .ackSend, arrivalOf 14, .ackSend] damageStart
     (t.link.expected, t.link.ackPending, t.intake.queue.length, t.link.granted, t.link.lastTx, t.link.counters)) =
      (15, none, 8, 56, some (.ack 14), ⟨1, 1, 1, 2, 0, 0⟩) := by decide +kernel

/-- File 10, section 10.7: replay to failure. Times are in time units. -/
def replayStart : State :=
  { upState with link := { upState.link with
      nextSeq := 43, replayTimer := .running 0 40000
      replay := [⟨40, .writeDone 0 0⟩, ⟨41, .writeDone 0 1⟩, ⟨42, .writeDone 0 2⟩] } }
def later (n : Nat) (s : State) : State := { s with now := n }

theorem test_nak_replays :
    (let t := afterAll [.nak [41, 0, 0, 0], .retransmission, .retransmission] replayStart
     (t.link.replay.map (·.seq), t.link.attempts, t.link.replayPoint, t.link.replayTimer, t.link.lastTx)) =
      ([41, 42], 1, none, .running 0 40000, some (.sequenced ⟨42, .writeDone 0 2⟩)) := by decide +kernel
theorem test_replay_to_failure :
    (let expire := fun (n : Nat) (s : State) => after .replayTimerExpiry (later n s)
     let t := expire 160000 (expire 120000 (expire 80000 (expire 40000 (after (.nak [41, 0, 0, 0]) replayStart))))
     (t.link.state, t.link.replay, t.link.attempts, t.mgmt.fault, t.mgmt.notices)) =
      (.training, [], 0, some ⟨.replayFail, none, 41, 1⟩, [⟨.replayFail, none, 41⟩]) := by decide +kernel

/-- File 02, section 2.6.1: the footprints, the ALIAS and the commit after its repair. -/
theorem test_footprints :
    footprint exampleLayouts exampleRegions[0] 0 = some (100, 107) ∧
    footprint exampleLayouts exampleRegions[0] 1 = some (100, 107) ∧
    footprint exampleLayouts exampleRegions[1] 0 = none ∧
    footprint exampleLayouts exampleRegions[1] 1 = some (108, 115) := by decide +kernel
def aliasState : State :=
  { mapState with map := { exampleMap with
      epoch := 0, liveRegions := mapAtReset.liveRegions
      shadowRegions := exampleRegions.set 1 { exampleRegions[1] with rowBase := 105 } } }
theorem test_commit_alias :
    (after .commitMap (headed aliasState (mcmd 16 0))).ret.queue.map (·.body) = [.mgmtResp .alias_ none] := by
  decide +kernel
theorem test_commit_passes :
    (let t := after .commitMap (headed { mapState with map := { exampleMap with
          epoch := 0, liveRegions := mapAtReset.liveRegions } } (mcmd 16 0))
     (t.ret.queue.map (·.body), t.map.epoch, t.map.current, t.map.previous, t.mgmt.notices)) =
      ([.mgmtResp .ok none], 1, 0, 0, [⟨.mapDrained, none, 0⟩]) := by decide +kernel

/-- File 02, section 2.6.2: where the requests go. -/
theorem test_locations :
    exampleMap.locate exampleRegions[0] 0x1000001A40#40 = ⟨0, 5, 100, 5⟩ ∧
    exampleMap.locate exampleRegions[1] 0x1000100040#40 = ⟨1, 1, 108, 0⟩ ∧
    exampleMap.locate exampleRegions[0] 0x1000003FC0#40 = ⟨1, 7, 100, 15⟩ := by decide +kernel
theorem test_read_accepted :
    (let t := after .read (headed mapState (readPkt 0x1000001A40))
     ((t.chan 0).pool, t.ret.slots[0], t.map.current, t.link.owed, t.intake.queue)) =
      ([⟨0, 5, 7, 1, .read 0, 5, 100, 5, 0, false⟩], .reserved ⟨0, 5, 7, 1, 0, 5, 100⟩, 1, 1, []) := by decide +kernel
theorem test_write_accepted :
    (let t := after .write (headed mapState (writePkt 0x1000001A40 1))
     ((t.chan 0).pool.map (·.bank), t.ret.queue, t.map.current)) = ([5], [], 1) := by decide +kernel
theorem test_write_read_only :
    (after .write (headed mapState ⟨0x02, 1, 1, (writePkt 0x1000100040 1).payload⟩)).ret.queue.map (·.body) =
      [.errorResp .readOnly] := by decide +kernel
theorem test_read_denied :
    (after .read (headed mapState ⟨0x01, 2, 3, (readPkt 0x1000000000).payload⟩)).ret.queue.map (·.body) =
      [.errorResp .denied] := by decide +kernel

/-- File 01, section 1.5.1: two flushes on one stream, the two records and what each issued write does to them. -/
theorem test_flush_records :
    let l : List FlushRecord := [⟨5, 2, 2⟩, ⟨7, 4, 3⟩]
    let l1 := l.map (FlushRecord.lower 1)
    let l2 := l1.map (FlushRecord.lower 3)
    let l3 := l2.map (FlushRecord.lower 0)
    l1 = [⟨5, 2, 1⟩, ⟨7, 4, 2⟩] ∧ l2 = [⟨5, 2, 1⟩, ⟨7, 4, 1⟩] ∧ flushesDone l3 = [⟨5, 2, 0⟩, ⟨7, 4, 0⟩] ∧
      flushesLeft l3 = [] := by decide +kernel
theorem test_order_wraps : orderLater 0 65535 = true ∧ orderLater 65535 0 = false ∧ orderLater 32767 0 = true ∧
    orderLater 32768 0 = false ∧ orderLater 4 4 = false := by decide +kernel

/-- File 05, sections 5.6.1 to 5.6.3: the cut of a running interval, and the drift. -/
def normalRunning (e : Nat) : Channel := { inState .active (channelAtReset 0) with interval := .running 0 e }
theorem test_interval_cut :
    ((normalRunning 30400).takeBand 20000 .normal .hot).interval = .running 0 30400 ∧
    ((normalRunning 30400).takeBand 8000 .normal .hot).interval = .running 0 23200 ∧
    ((normalRunning 30400).takeBand 8000 .hot .normal).interval = .running 0 30400 := by decide +kernel
theorem test_drift : driftOf 167 160 700 = 500 ∧ driftOf 166 167 2500 = 20 ∧ driftOf 167 160 0 = 350000 := by
  decide +kernel

/-- File 06, section 6.8: an interval computed, and what it does to two running timers. -/
def trimExample : MaintSettings :=
  { maintAtReset with trimReach := 400, tempSens := 1200, voltSens := 100, voltDrift := 20 }
theorem test_trim_interval : trimIntervalOf trimExample 50 = 153 ∧ trimIntervalOf trimExample 0 = 200 ∧
    trimIntervalOf { trimExample with voltDrift := 0 } 0 = 1000 := by decide +kernel
def trimming (st : Nat) : Channel :=
  { inState .active (channelAtReset 0) with
    trimInterval := 200, trimTimer := .running st (st + 800000000) }
theorem test_trim_recomputed :
    ((trimming 400000000).recomputeTrim 640000000 trimExample 50).trimTimer = .running 400000000 1012000000 ∧
    ((trimming 0).recomputeTrim 640000000 trimExample 50).shortTrimDue = true ∧
    ((trimming 0).recomputeTrim 640000000 trimExample 50).graceTimer = .running 640000000 644000000 := by decide +kernel

/-! ## The laws: a state with something in it that meets each, and that steps -/

/-- Channel 0 refreshing with an urgent debt of 8; channel 1 with a debt of −8. -/
def debtState : State :=
  (activeState.modChan 0 fun x => { x with debt := 8, urgent := true, maint := some ⟨.refresh, 720⟩ }).modChan 1
    fun x => { x with debt := -8 }

theorem test_w_DebtLawKept : DebtLaw debtState ∧ Safe (step debtState) := by
  refine ⟨⟨by decide, by decide, fun c => ?_⟩, ⟨_, rfl⟩⟩
  match c with
  | 0 => exact ⟨by decide, by decide, by decide, fun _ _ _ => by decide⟩
  | 1 => exact ⟨by decide, by decide, by decide, fun m h => by simp [debtState, activeState, upState, State.reset,
      stateAtReset, channelAtReset, State.modChan, State.setChan, State.chan, inState] at h⟩

def tagState : State := { upState with intake := { upState.intake with tags := [(0, 1), (1, 1), (0, 2)] } }
theorem test_w_TagLawKept : TagLaw tagState ∧ Safe (step tagState) :=
  ⟨by unfold TagLaw; decide, ⟨_, rfl⟩⟩

theorem test_w_CreditLawKept : CreditLaw damageStart ∧ Safe (step damageStart) :=
  ⟨⟨fun _ => rfl, fun h => absurd rfl h, by decide⟩, ⟨_, rfl⟩⟩

/-- The slots, tags and stamps of reads and writes in every place: slot 0 held by a READ of channel 0's pool, slot 1 by
an issued read of channel 1, slot 2 in DISCARD for an issued read of channel 0, slot 3 FILLED for a response; a WRITE in
channel 1's pool, a WRITE_DONE whose burst is on channel 0's bus, and a discarded write on channel 1's bus. -/
def slotState : State :=
  let ws : Vector StoredWord 8 := Vector.replicate 8 ⟨0, 0, 0⟩
  let s := (activeState.modChan 0 fun x => { x with
    pool := [entry (.read 0)], issued := [⟨2, ws, 50⟩], writeBurst := some ⟨2, 2, 1, 0, 0, false, 70⟩ }).modChan 1
    fun x => { x with
      pool := [{ writeEntry with stream := 3, epoch := 15 }], issued := [⟨1, ws, 60⟩]
      writeBurst := some ⟨2, 2, 1, 0, 15, true, 70⟩ }
  { s with
    map := { s.map with current := 4, previous := 3 }
    intake := { s.intake with tags := [(2, 1), (1, 5), (1, 4), (1, 3), (3, 3)] }
    ret := { s.ret with
      slots := (((s.ret.slots.set 0 (.reserved ⟨1, 3, 0, 0, 0, 2, 9⟩)).set 1 (.reserved ⟨1, 4, 1, 0, 1, 2, 9⟩)).set 2
        (.discard ⟨1, 3, 0, 15, 0, 2, 9⟩)).set 3 (.filled ⟨1, 5, 2, 0, 0, 2, 9⟩ (Vector.replicate 8 0) 0)
      queue := [⟨1, 5, 2, .readData 0 3, false⟩, ⟨2, 1, 0, .writeDone 0 0, false⟩] } }
theorem test_slots_lawful : SlotLaw slotState := by unfold SlotLaw; decide +kernel
theorem test_w_SlotLawKept : SlotLaw slotState ∧ Safe (step slotState) := ⟨test_slots_lawful, ⟨_, rfl⟩⟩

theorem test_w_OwedLawKept : (SlotLaw slotState ∧ OwedLaw slotState) ∧ Safe (step slotState) :=
  ⟨⟨test_slots_lawful, by unfold OwedLaw; decide +kernel⟩, ⟨_, rfl⟩⟩

theorem test_w_EpochLawKept :
    (TagLaw slotState ∧ SlotLaw slotState ∧ OwedLaw slotState ∧ EpochLaw slotState) ∧ Safe (step slotState) := by
  refine ⟨⟨by unfold TagLaw; decide +kernel, test_slots_lawful, by unfold OwedLaw; decide +kernel,
    by decide +kernel, by decide +kernel, by decide +kernel, ?_, ?_, ?_⟩, ⟨_, rfl⟩⟩
  · intro c e he i hi
    match c with
    | 0 =>
      have : e = entry (.read 0) := by simpa [slotState, State.modChan, State.setChan, State.chan] using he
      subst this
      cases hi
      decide +kernel
    | 1 =>
      have : e = { writeEntry with stream := 3, epoch := 15 } := by
        simpa [slotState, State.modChan, State.setChan, State.chan] using he
      subst this
      cases hi
  · intro r hr e i hb
    have : r = ⟨1, 5, 2, .readData 0 3, false⟩ ∨ r = ⟨2, 1, 0, .writeDone 0 0, false⟩ := by simpa [slotState] using hr
    rcases this with rfl | rfl
    · cases hb; decide +kernel
    · cases hb
  · intro r hr e c w hb hw
    have : r = ⟨1, 5, 2, .readData 0 3, false⟩ ∨ r = ⟨2, 1, 0, .writeDone 0 0, false⟩ := by simpa [slotState] using hr
    rcases this with rfl | rfl
    · cases hb
    · cases hb
      have : w = ⟨2, 2, 1, 0, 0, false, 70⟩ := by
        simpa [slotState, State.modChan, State.setChan, State.chan, eq_comm] using hw
      subst this
      exact ⟨rfl, fun _ => rfl⟩

/-- Channel 0 refreshing, channel 1 HELD. -/
def restState : State :=
  (activeState.modChan 0 fun x => { x with maint := some ⟨.refresh, 720⟩ }).modChan 1 (inState .held)
theorem test_w_RestLawKept : RestLaw restState ∧ Safe (step restState) :=
  ⟨by unfold RestLaw AtRest; decide +kernel, ⟨_, rfl⟩⟩

def replayingState : State := { replayStart with link := { replayStart.link with replayPoint := some 41, attempts := 4 } }
theorem test_w_ReplayLawKept : ReplayLaw replayingState ∧ Safe (step replayingState) := by
  refine ⟨⟨by decide, ?_, ?_, by decide, by decide, by decide⟩, ⟨_, rfl⟩⟩
  · intro i p h
    match i, h with
    | 0, h => simp [replayingState, replayStart] at h; subst h; rfl
    | 1, h => simp [replayingState, replayStart] at h; subst h; rfl
    | 2, h => simp [replayingState, replayStart] at h; subst h; rfl
    | i + 3, h => simp [replayingState, replayStart] at h
  · intro n h
    have : n = 41 := by simpa [replayingState, replayStart, eq_comm] using h
    subst this
    exact ⟨⟨41, .writeDone 0 1⟩, by decide, rfl⟩

/-- Three pending notices, eight responses sent ahead of them. -/
def noticeState : State :=
  { upState with
    mgmt := { mgmtAtReset with notices := [⟨.tempOver, none, 190⟩, ⟨.poisoned, some 0, 9⟩, ⟨.poisoned, some 1, 9⟩]
                               fault := some ⟨.overrun, none, 70, 255⟩ }
    ret := { returnAtReset with noticeWait := 8 } }
theorem test_w_NoticeLawKept : NoticeLaw noticeState ∧ Safe (step noticeState) :=
  ⟨by unfold NoticeLaw; decide +kernel, ⟨_, rfl⟩⟩

/-- A pool of 32, a window list of 4, two words of DRAM contents. -/
def boundState : State :=
  chan0 noticeState fun x => { x with
    pool := writePool 32, window := List.replicate 4 ⟨0, 128⟩, dram := [(3, ⟨1, 1, 0⟩), (9, ⟨2, 2, 0⟩)] }
theorem test_w_BoundsKept :
    (PoolLaw boundState ∧ BypassLaw boundState ∧ WindowLaw boundState ∧ StreamLaw boundState ∧ DramLaw boundState) ∧
      FaultLaw boundState ∧ Safe (step boundState) := by
  refine ⟨⟨by unfold PoolLaw; decide +kernel, by unfold BypassLaw; decide +kernel, by unfold WindowLaw; decide +kernel,
    by unfold StreamLaw; decide +kernel, by unfold DramLaw; decide +kernel⟩, ?_, ⟨_, rfl⟩⟩
  intro f h
  have : f = ⟨.overrun, none, 70, 255⟩ := by
    simpa [boundState, chan0, noticeState, State.modChan, State.setChan, eq_comm] using h
  subst this
  decide

/-! ## The host link -/

theorem test_w_LinkControlOutsideUp :
    State.reset.link.state = .down ∧ (after (.hello []) State.reset).link.state = .training ∧
    State.reset.link.state ≠ .up ∧ ([1#8] : List Byte).length ≠ 0 ∧ ([1#8, 2, 3] : List Byte).length ≠ 4 ∧
    ([1#8, 2, 3, 4, 5] : List Byte).length ≠ 4 := by decide +kernel

theorem test_w_LinkResetClearsRequestSide : upState.link.state = .up := rfl

/-- The buffer holds 40 to 42: both ends, one past each end, and the empty buffer; the fourth and fifth replay. -/
theorem test_w_LinkControlInUp :
    replayStart.link.state = .up ∧
    replayStart.link.replay = ⟨40, .writeDone 0 0⟩ :: [⟨41, .writeDone 0 1⟩, ⟨42, .writeDone 0 2⟩] ∧
    (40#8 - 40#8).toNat < 3 ∧ (42#8 - 40#8).toNat < 3 ∧ 3 ≤ (43#8 - 40#8).toNat ∧ 3 ≤ (39#8 - 40#8).toNat ∧
    replayStart.link.nextSeq = 43#8 ∧ (39#8 : SeqNo) ≠ replayStart.link.nextSeq ∧ replayStart.link.attempts < 4 ∧
    replayingState.link.attempts = 4 ∧ (41#8 : SeqNo) ≠ 40#8 ∧ upState.link.replay = [] := by decide +kernel

/-- An ingress queue of `n` packets. -/
def filledQueue (n : Nat) : State :=
  { upState with intake := { upState.intake with queue := List.replicate n (qp flushPkt), tags := [(1, 3)] } }

theorem test_w_SequencedPacketArrives :
    upState.link.state = .up ∧ Packet.linkControlKind (flushPkt).kind = false ∧
    (filledQueue 63).intake.queue.length < 64 ∧ ((0 : StreamIx), (5 : TagIx)) ∉ (filledQueue 63).intake.tags ∧
    ((1 : StreamIx), (3 : TagIx)) ∈ (filledQueue 63).intake.tags ∧ 64 ≤ (filledQueue 64).intake.queue.length ∧
    upState.link.expected = 0#8 ∧
    (0#8 - 255#8).toNat = 1 ∧ (0#8 - 128#8).toNat = 128 ∧ (1#8 - 0#8).toNat = 1 ∧ (127#8 - 0#8).toNat = 127 := by
  decide +kernel
theorem test_overrun_and_reuse :
    (after (.sequencedPacketArrival 0 flushPkt) (filledQueue 64)).mgmt.fault = some ⟨.overrun, none, 5, 1⟩ ∧
    (let t := after (.sequencedPacketArrival 0 ⟨3, 1, 3, []⟩) (filledQueue 1)
     (t.mgmt.fault, t.link.owed, t.link.granted, t.intake.queue.length)) =
      (some ⟨.tagReuse, none, 67, 1⟩, 1, 63, 1) := by decide +kernel

def sendingState (nak ack : Option SeqNo) (owed : Nat) (point : Option SeqNo) : State :=
  { replayStart with link := { replayStart.link with nakPending := nak, ackPending := ack, owed := owed,
                                                     replayPoint := point } }
theorem test_w_LinkControlSends :
    (after (.hello []) State.reset).link.helloPending = true ∧
    ((sendingState (some 1) none 0 none).link.state = .up ∧ (sendingState (some 1) none 0 none).link.helloPending = false
      ∧ (sendingState (some 1) none 0 none).link.nakPending = some 1) ∧
    ((sendingState none (some 1) 0 none).link.nakPending = none ∧
      (sendingState none (some 1) 0 none).link.ackPending = some 1) ∧
    ((sendingState none none 1 none).link.ackPending = none ∧ 1 ≤ (sendingState none none 1 none).link.owed) ∧
    (PortClear (sendingState none none 0 (some 42)).link ∧
      (sendingState none none 0 (some 42)).link.replayPoint = some 42 ∧
      (sendingState none none 0 (some 42)).link.replay =
        [⟨40, .writeDone 0 0⟩, ⟨41, .writeDone 0 1⟩] ++ ⟨42, .writeDone 0 2⟩ :: [] ∧
      (42#8 - 40#8).toNat = 2) := by decide +kernel
theorem test_hello_then_credit :
    (let t := afterAll [.hello [], .helloSend, .creditSend] State.reset
     (t.link.state, t.link.granted, t.link.owed, t.link.lastTx)) = (.up, 64, 0, some (.credit 64)) := by decide +kernel

/-- Two responses, the first of a STRICT stream and not its turn; one credit; room for one more packet. -/
def respState (notices : List Notice) (wait : Nat) (q : List Response) : State :=
  { upState with
    link := { upState.link with respCredits := 1, replay := List.replicate 31 ⟨0, .flushDone 0 0⟩ }
    intake := { upState.intake with streams := upState.intake.streams.set 1 ⟨.strict, false, false, 6, []⟩ }
    ret := { returnAtReset with queue := q, noticeWait := wait }
    mgmt := { mgmtAtReset with notices := notices } }
def lateResponse : Response := ⟨1, 4, 5, .flushDone, false⟩
def readyResponse : Response := ⟨0, 2, 9, .writeDone 0 0, false⟩
theorem test_w_ResponseAndNoticeSends :
    (PortTakes (respState [⟨.tempOver, none, 190⟩] 7 [lateResponse, readyResponse]).link ∧
      (respState [⟨.tempOver, none, 190⟩] 7 [lateResponse, readyResponse]).sendable readyResponse = true ∧
      (respState [⟨.tempOver, none, 190⟩] 7 [lateResponse, readyResponse]).sendable lateResponse = false ∧
      (respState [⟨.tempOver, none, 190⟩] 7 [lateResponse, readyResponse]).ret.noticeWait ≠ 8) ∧
    ((respState [⟨.tempOver, none, 190⟩] 8 [readyResponse]).ret.noticeWait = 8 ∧
      (∀ q ∈ (respState [⟨.tempOver, none, 190⟩] 0 [lateResponse]).ret.queue,
        (respState [⟨.tempOver, none, 190⟩] 0 [lateResponse]).sendable q = false) ∧
      (∀ j : StreamIx, ((respState [] 0 []).stream j).noticeTarget = true ↔ j = 0)) := by decide +kernel
theorem test_notice_goes_ninth :
    (after .responseSend (respState [⟨.tempOver, none, 190⟩] 8 [readyResponse])).link.lastTx = none ∧
    (after .noticeSend (respState [⟨.tempOver, none, 190⟩] 8 [readyResponse])).link.lastTx =
      some (.sequenced ⟨0, .notice 0 .tempOver none 190⟩) := by decide +kernel
theorem test_w_StrictStreamsSendInOrder :
    (after .responseSend (respState [] 0 [lateResponse, readyResponse])).ret.queue = [lateResponse] := by decide +kernel
theorem test_w_ReplayTimerExpires :
    (later 40000 replayStart).link.replayTimer = .running 0 40000 ∧ 40000 ≤ (later 40000 replayStart).now ∧
    (later 40000 replayStart).link.replay ≠ [] ∧
    { (later 40000 replayStart).link with attempts := 3 }.attempts < 4 ∧ 4 ≤ (later 40000 replayingState).link.attempts ∧
    (later 40000 replayingState).mgmt.settings.noticeEnable = 255 := by decide +kernel

/-! ## The head of the ingress queue -/

def otherStream (p : Packet) : Packet := { p with stream := 1 }

theorem test_w_RefusedAtTheTaking :
    HeadIs (headed upState (pkt 0x77 [])) (qp (pkt 0x77 [])) [] .malformed ∧
    HeadIs (headed upState (otherStream (mread 0 0 0))) (qp (otherStream (mread 0 0 0))) [] (.mgmtRead ⟨0, 0, 0⟩) ∧
    HeadIs (headed upState (otherStream (mwrite 7 0 0 1))) (qp (otherStream (mwrite 7 0 0 1))) []
      (.mgmtWrite ⟨7, 0, 0⟩ 1) ∧
    HeadIs (headed upState (otherStream (mcmd 18 0))) (qp (otherStream (mcmd 18 0))) [] (.mgmtCommand 18 0 none) ∧
    (upState.stream 1).manager = false ∧
    (∀ n : Byte, n ∈ [0#8, 7#8, 15#8, 21#8, 255#8] →
      ManagerHead (headed upState (mcmd n 0)) (qp (mcmd n 0)) [] (.mgmtCommand n.toNat 0 none) ∧
      n.toNat ∉ [1, 2, 3, 4, 5, 6, 16, 17, 18, 19, 20]) ∧
    ManagerHead (headed upState (mcmd 1 2)) (qp (mcmd 1 2)) [] (.mgmtCommand 1 2 none) ∧
    ManagerHead (headed upState (mcmd 6 0)) (qp (mcmd 6 0)) [] (.mgmtCommand 6 0 none) ∧
    (upState.chan 0).longCmd = none ∧ (upState.chan 0).state ∉ [ChanState.active, .doze, .held] := by decide +kernel
theorem test_busy_command :
    (after .hold (headed (chan0 activeState fun x => { x with longCmd := some ⟨.trimLong, 0, 1, 1, true⟩ })
      (mcmd 2 0))).ret.queue.map (·.body) = [.mgmtResp .busy none] := by decide +kernel
theorem test_unknown_kind :
    (after .unknownKind (headed upState (pkt 0x77 []))).ret.queue = [⟨0, 5, 7, .errorResp .malformed, false⟩] ∧
    requestOf (pkt 0x01 [0, 0, 0, 0, 0, 1, 0, 0]) = .malformed ∧ requestOf (pkt 0x03 [0]) = .malformed ∧
    requestOf (pkt 0x06 [1, 0, 0, 0, 1, 0, 0, 0]) = .malformed := by decide +kernel
theorem test_unknown_code :
    (after .unknownCommandCode (headed upState (mcmd 7 0))).ret.queue.map (·.body) = [.mgmtResp .badIndex none] := by
  decide +kernel

theorem test_w_TranslationComputed :
    (⟨.split, 6⟩ : Layout).granuleK ≤ 6 ∧ 62 % 2 ^ (⟨.split, 6⟩ : Layout).granuleK + 1 < 2 ^ (⟨.split, 6⟩ : Layout).granuleK
    := by decide
theorem test_w_FootprintCoversRegion :
    (layoutAt exampleLayouts exampleRegions[0].layout).granuleK ≤ 6 ∧ exampleRegions[0].badLayout = false ∧
    16383 < exampleRegions[0].lines := by decide +kernel

/-- The address of region 0 whose line lies on channel 0, and one of region 1. -/
def onZero : Nat := 0x1000001A40
def inOne : Nat := 0x1000100040

theorem test_w_RequestsRefusedInOrder_read :
    (HeadIs (headed mapState (readPkt 0x1000000001)) (qp (readPkt 0x1000000001)) [] (.read 0x1000000001#40) ∧
      (0x1000000001#40).toNat % 64 ≠ 0) ∧
    (HeadIs (headed mapState (readPkt 0)) (qp (readPkt 0)) [] (.read 0#40) ∧
      ∀ j : Fin 16, mapState.map.liveRegions[j].holds 0#40 = false) ∧
    (HeadIs (headed mapState (readPkt onZero)) (qp (readPkt onZero)) [] (.read 0x1000001A40#40) ∧
      LiveRegion mapState 0x1000001A40#40 0 ∧ LiveRegion mapState 0x1000000000#40 0 ∧
      LiveRegion mapState 0x10000FFFC0#40 0 ∧ LiveRegion mapState 0x1000100000#40 1 ∧
      mapState.map.liveRegions[(0 : Fin 16)].streams.getLsbD 0 = true ∧
      mapState.map.liveRegions[(0 : Fin 16)].streams.getLsbD 2 = false ∧
      ((chan0 mapState (inState .uninit)).chan 0).state ∈ [ChanState.uninit, .starting] ∧
      ((chan0 mapState (inState .holding)).chan 0).state ∈ [ChanState.holding, .held] ∧
      (mapState.map.locate mapState.map.liveRegions[(0 : Fin 16)] 0x1000001A40#40).chan = 0) := by decide +kernel
theorem test_w_RequestsRefusedInOrder_write :
    (HeadIs (headed mapState (writePkt onZero 0)) (qp (writePkt onZero 0)) []
      (.write 0x1000001A40#40 0 (lineOfBytes (leBytes 64 0x0807060504030201)))) ∧
    (HeadIs (headed mapState (writePkt inOne 1)) (qp (writePkt inOne 1)) []
      (.write 0x1000100040#40 1 (lineOfBytes (leBytes 64 0x0807060504030201))) ∧
      LiveRegion mapState 0x1000100040#40 1 ∧ mapState.map.liveRegions[(1 : Fin 16)].writable = false ∧
      mapState.map.liveRegions[(0 : Fin 16)].writable = true) := by decide +kernel

/-- All slots reserved. -/
def slotsFull (s : State) : State :=
  { s with ret := { s.ret with slots := Vector.replicate 48 (.reserved ⟨0, 1, 0, 0, 0, 0, 0⟩) } }

theorem test_w_RequestsAcceptedOrWait :
    Accepts (mapState.chan 0).state ∧ mapState.ret.slots[(0 : SlotIx)] = .free ∧
    ((chan0 mapState fun x => { x with pool := writePool 31 }).chan 0).pool.length < 32 ∧
    32 ≤ ((chan0 mapState fun x => { x with pool := writePool 32 }).chan 0).pool.length ∧
    (∀ j : SlotIx, (slotsFull mapState).ret.slots[j] ≠ .free) := by decide +kernel
theorem test_request_waits :
    (after .read (headed (slotsFull mapState) (readPkt onZero))).intake.queue = [qp (readPkt onZero)] ∧
    (after .write (headed (chan0 mapState fun x => { x with pool := writePool 32 }) (writePkt onZero 1))).intake.queue =
      [qp (writePkt onZero 1)] := by decide +kernel

theorem test_w_PlacementActsByState :
    (0 : Chan) ≠ 1 ∧
    ((chan0 upState (inState .doze)).chan 0).state = .doze ∧
    (((chan0 upState fun x => { inState .retainPending x with longCmd := some ⟨.retain, 0, 1, 1, true⟩ }).chan 0).state =
      .retainPending ∧
     (((chan0 upState fun x => { inState .retainPending x with longCmd := some ⟨.retain, 0, 1, 1, true⟩ }).chan 0).longCmd =
      some ⟨.retain, 0, 1, 1, true⟩)) ∧
    ((chan0 upState (inState .retained)).chan 0).state = .retained ∧
    ((chan0 upState (inState .waking)).chan 0).state = .waking := by decide +kernel

/-- Stream 0 with `n` flush records, and two WRITEs of it in channel 0's pool. -/
def flushState (n : Nat) : State :=
  (chan0 activeState fun x => { x with pool := [{ writeEntry with stream := 0 }, { writeEntry with stream := 0 }] }).modStream
    0 fun e => { e with flushes := List.replicate n ⟨9, 1, 1⟩ }
theorem test_w_FlushCountsWaitingWrites :
    HeadIs (headed activeState flushPkt) (qp flushPkt) [] .flush ∧
    HeadIs (headed (flushState 3) flushPkt) (qp flushPkt) [] .flush ∧
    (((flushState 3).chan 0).pool ++ ((flushState 3).chan 1).pool).countP (fun e => e.isWrite && e.stream == 0) = 2 ∧
    ((flushState 3).stream 0).flushes.length < 4 ∧ 4 ≤ ((flushState 4).stream 0).flushes.length := by decide +kernel
theorem test_flush_outcomes :
    (after .flush (headed activeState flushPkt)).ret.queue.map (·.body) = [.flushDone] ∧
    ((after .flush (headed (flushState 3) flushPkt)).stream 0).flushes.length = 4 ∧
    (after .flush (headed (flushState 4) flushPkt)).ret.queue.map (·.body) = [.errorResp .flushLimit] := by decide +kernel

/-! ## Management -/

theorem test_w_ManagementReads :
    (∀ n : Byte, n ∈ [0#8, 8#8] →
      ManagerHead (headed upState (mread 9 1 n)) (qp (mread 9 1 n)) [] (.mgmtRead ⟨9, 1, n.toNat⟩)) ∧
    (taken (headed upState (mread 9 1 0)) []).readField ⟨9, 1, 0⟩ = some 0 ∧
    (taken (headed upState (mread 13 0 1)) []).readField ⟨13, 0, 1⟩ = some 0 ∧
    (taken (headed upState (mread 9 1 8)) []).readField ⟨9, 1, 8⟩ = none ∧
    ManagerHead (headed upState (mread 14 0 0)) (qp (mread 14 0 0)) [] (.mgmtRead ⟨14, 0, 0⟩) ∧
    ManagerHead (headed upState (mread 255 0 0)) (qp (mread 255 0 0)) [] (.mgmtRead ⟨255, 0, 0⟩) := by decide +kernel
/-- LINK_STATUS as it stands at the taking: the packet has left the queue and its credit is owed. -/
theorem test_link_status_at_taking :
    (after .mgmtRead (headed upState (mread 13 0 1))).ret.queue.map (·.body) = [.mgmtResp .ok (some 0)] ∧
    (after .mgmtRead (headed upState (mread 13 0 3))).ret.queue.map (·.body) = [.mgmtResp .ok (some 1)] := by
  decide +kernel

theorem test_w_IdentReads :
    (∀ n : Byte, n ∈ [0#8, 9#8, 10#8, 255#8] →
      ManagerHead (headed upState (mread 0 0 n)) (qp (mread 0 0 n)) [] (.mgmtRead ⟨0, 0, n.toNat⟩)) ∧
    ([0x2408, 1, 2, 4, 64, 48, 32, 16, 4, 32][0]? = some 0x2408 ∧ [0x2408, 1, 2, 4, 64, 48, 32, 16, 4, 32][9]? = some 32)
    ∧ ManagerHead (headed upState (mread 0 1 0)) (qp (mread 0 1 0)) [] (.mgmtRead ⟨0, 1, 0⟩) ∧
    (∀ n : Byte, n ∈ [0#8, 9#8] →
      ManagerHead (headed upState (mwrite 0 0 n 7)) (qp (mwrite 0 0 n 7)) [] (.mgmtWrite ⟨0, 0, n.toNat⟩ 7)) := by
  decide +kernel

theorem test_w_FaultTableReads :
    (∀ n : Byte, n ∈ [0#8, 4#8, 5#8] →
      ManagerHead (headed noticeState (mread 11 0 n)) (qp (mread 11 0 n)) [] (.mgmtRead ⟨11, 0, n.toNat⟩)) ∧
    ManagerHead (headed noticeState (mread 11 1 0)) (qp (mread 11 1 0)) [] (.mgmtRead ⟨11, 1, 0⟩) ∧
    (∀ n : Byte, n ∈ [0#8, 4#8] →
      ManagerHead (headed noticeState (mwrite 11 0 n 0)) (qp (mwrite 11 0 n 0)) [] (.mgmtWrite ⟨11, 0, n.toNat⟩ 0)) ∧
    upState.mgmt.fault = none ∧ (headed noticeState (mread 11 0 4)).mgmt.fault = some ⟨.overrun, none, 70, 255⟩ ∧
    ([1, 4, 2, 70, 255] : List Word32)[4]? = some 255 := by decide +kernel
theorem test_fault_reads :
    (after .mgmtRead (headed noticeState (mread 11 0 2))).ret.queue.map (·.body) = [.mgmtResp .ok (some 2)] ∧
    (after .mgmtRead (headed upState (mread 11 0 2))).ret.queue.map (·.body) = [.mgmtResp .ok (some 0)] := by
  decide +kernel

/-- Stream 1 with one tag outstanding beside the writer's own of stream 0. -/
def taggedState (p : Packet) : State :=
  let s := headed upState p
  { s with intake := { s.intake with tags := [(0, 5), (1, 3)] } }
/-- Streams 0 and 1 are managers. -/
def twoManagers : State := upState.modStream 1 fun e => { e with manager := true }

theorem test_w_StreamTableWrites :
    (∀ v : Nat, v ∈ [0, 1, 2] → ManagerHead (taggedState (mwrite 1 1 0 v)) (qp (mwrite 1 1 0 v)) []
      (.mgmtWrite ⟨1, (1 : StreamIx).val, 0⟩ (BitVec.ofNat 32 v))) ∧
    (((taggedState (mwrite 1 1 0 1)).stream 1).orderMode ≠ orderModeOf 1 ∧
      ((taggedState (mwrite 1 1 0 0)).stream 1).orderMode = orderModeOf 0 ∧
      ∃ t ∈ (taggedState (mwrite 1 1 0 1)).intake.tags, t.1 = 1 ∧ t ≠ (0, 5)) ∧
    (ManagerHead (taggedState (mwrite 1 0 0 1)) (qp (mwrite 1 0 0 1)) [] (.mgmtWrite ⟨1, (0 : StreamIx).val, 0⟩ 1) ∧
      (∀ t ∈ (taggedState (mwrite 1 0 0 1)).intake.tags, t.1 = 0 → t = (0, 5)) ∧
      ((taggedState (mwrite 1 0 0 1)).stream 0).orderMode ≠ orderModeOf 1) ∧
    (((headed upState (mwrite 1 2 0 0)).modStream 2 fun e => { e with orderMode := .strict }).stream 2).orderMode ≠
      orderModeOf 0 ∧
    (∀ v : Nat, v ∈ [0, 1, 2] → ManagerHead (headed upState (mwrite 1 0 1 v)) (qp (mwrite 1 0 1 v)) []
      (.mgmtWrite ⟨1, (0 : StreamIx).val, 1⟩ (BitVec.ofNat 32 v))) ∧
    ((upState.stream 0).manager = true ∧ (∀ j : StreamIx, j ≠ 0 → (upState.stream j).manager = false) ∧
      (twoManagers.stream 1).manager = true) ∧
    (∀ v : Nat, v ∈ [0, 1, 2] → ManagerHead (headed upState (mwrite 1 3 2 v)) (qp (mwrite 1 3 2 v)) []
      (.mgmtWrite ⟨1, (3 : StreamIx).val, 2⟩ (BitVec.ofNat 32 v))) ∧
    (upState.stream 0).noticeTarget = true ∧ (upState.stream 3).noticeTarget = false := by decide +kernel
theorem test_stream_table_outcomes :
    (after .orderModeWrite (taggedState (mwrite 1 1 0 1))).ret.queue.map (·.body) = [.mgmtResp .busy none] ∧
    (after .orderModeWrite (taggedState (mwrite 1 0 0 1))).ret.nextToSend[(0 : StreamIx)] = 7 ∧
    ((after .noticeTargetWrite (headed upState (mwrite 1 3 2 1))).stream 0).noticeTarget = false ∧
    (after .managerWrite (headed upState (mwrite 1 0 1 0))).ret.queue.map (·.body) = [.mgmtResp .badValue none] := by
  decide +kernel

/-- A shadow write, the last field and value of each table, and one past each end. -/
theorem test_w_TableWritesReadBack_map :
    (∀ a : Byte × Byte × Byte × Nat,
      a ∈ [(2#8, 15#8, 8#8, 1), (4#8, 3#8, 1#8, 6), (3#8, 0#8, 0#8, 1), (5#8, 3#8, 1#8, 0), (2#8, 16#8, 0#8, 1),
        (2#8, 0#8, 9#8, 1), (4#8, 4#8, 0#8, 0), (4#8, 0#8, 2#8, 0), (2#8, 0#8, 5#8, 8), (4#8, 0#8, 0#8, 3)] →
      ManagerHead (headed upState (mwrite a.1 a.2.1 a.2.2.1 a.2.2.2)) (qp (mwrite a.1 a.2.1 a.2.2.1 a.2.2.2)) []
        (.mgmtWrite ⟨a.1.toNat, a.2.1.toNat, a.2.2.1.toNat⟩ (BitVec.ofNat 32 a.2.2.2))) ∧
    (MapIndex ⟨2, 15, 8⟩ ∧ MapRange ⟨2, 15, 8⟩ 1 ∧ MapIndex ⟨4, 3, 1⟩ ∧ MapRange ⟨4, 3, 1⟩ 6 ∧ MapIndex ⟨3, 0, 0⟩ ∧
      MapIndex ⟨5, 3, 1⟩) ∧
    (¬MapIndex ⟨2, 16, 0⟩ ∧ ¬MapIndex ⟨2, 0, 9⟩ ∧ ¬MapIndex ⟨4, 4, 0⟩ ∧ ¬MapIndex ⟨4, 0, 2⟩ ∧ ¬MapRange ⟨2, 0, 5⟩ 8 ∧
      ¬MapRange ⟨4, 0, 0⟩ 3) := by
  decide +kernel

/-- Channel 0 with a long command, its state apart. -/
def busyChannel (st : ChanState) (s : State) : State :=
  chan0 s fun x => { inState st x with longCmd := some ⟨.trimLong, 0, 1, 1, true⟩ }
theorem test_w_TableWritesReadBack_settings :
    (∀ a : Byte × Nat, a ∈ [(0#8, 1000000), (20#8, 1000001), (21#8, 10000), (22#8, 16384), (22#8, 65536), (23#8, 0)] →
      ManagerHead (headed upState (mwrite 6 0 a.1 a.2)) (qp (mwrite 6 0 a.1 a.2)) []
        (.mgmtWrite ⟨6, (0 : Chan).val, a.1.toNat⟩ (BitVec.ofNat 32 a.2))) ∧
    SettingRange 0 1000000 ∧ ¬SettingRange 20 1000001 ∧ SettingRange 21 10000 ∧ SettingRange 22 16384 ∧
    (activeState.chan 0).state ∉ [ChanState.uninit, .held] ∧ (upState.chan 0).state ∈ [ChanState.uninit, .held] ∧
    ((busyChannel .held upState).chan 0).longCmd ≠ none ∧
    (∃ r ∈ validRegions (chan0 mapState (inState .held)).map.liveRegions,
      ∃ lo hi, footprint mapState.map.liveLayouts r 0 = some (lo, hi) ∧ 100 ≤ hi) ∧
    validRegions upState.map.liveRegions = [] := by
  refine ⟨by decide +kernel, by decide, by decide, by decide, by decide, by decide +kernel, by decide +kernel,
    by decide +kernel, ⟨exampleRegions[0], by decide +kernel, 100, 107, by decide +kernel, by decide⟩, by decide +kernel⟩
theorem test_settings_write_outcomes :
    (let t := after .channelSettingsWrite (headed upState (mwrite 6 0 20 9000))
     ((t.chan 0).settings.idleTimeout, (t.chan 0).settingsPending)) = (9000, true) ∧
    (let t := after .rowsPerBankWrite (headed upState (mwrite 6 0 22 65536))
     ((t.chan 0).settings.rowsPerBank, (t.chan 0).settingsPending)) = (65536, false) := by decide +kernel

theorem test_w_MaintenanceWrites :
    (∀ a : Byte × Nat, a ∈ [(0#8, 0), (0#8, 1), (0#8, 8), (0#8, 9), (5#8, 1000), (5#8, 1001), (6#8, 16), (6#8, 15),
        (7#8, 100000), (8#8, 100), (9#8, 255), (9#8, 256), (9#8, 0)] →
      ManagerHead (headed noticeState (mwrite 7 0 a.1 a.2)) (qp (mwrite 7 0 a.1 a.2)) []
        (.mgmtWrite ⟨7, 0, a.1.toNat⟩ (BitVec.ofNat 32 a.2))) ∧
    (¬MaintenancePasses maintAtReset 0 0 ∧ MaintenancePasses maintAtReset 0 1 ∧ MaintenancePasses maintAtReset 0 8 ∧
      ¬MaintenancePasses maintAtReset 0 9 ∧ MaintenancePasses maintAtReset 7 100000 ∧
      MaintenancePasses maintAtReset 8 100 ∧ MaintenancePasses maintAtReset 9 255 ∧ ¬MaintenancePasses maintAtReset 9 256) ∧
    (¬MaintenancePasses maintAtReset 5 1001 ∧ ¬MaintenancePasses maintAtReset 6 15 ∧
      MaintenancePasses maintAtReset 5 1000 ∧ MaintenancePasses maintAtReset 6 16 ∧
      noticeState.mgmt.settings = { maintAtReset with noticeEnable := noticeState.mgmt.settings.noticeEnable }) ∧
    (ManagerHead (headed upState (mwrite 1 0 3 0)) (qp (mwrite 1 0 3 0)) [] (.mgmtWrite ⟨1, 0, 3⟩ 0) ∧
      writeRow ⟨1, 0, 3⟩ = .mgmtWrite ∧ ((headed upState (mwrite 1 0 3 0)).readField ⟨1, 0, 3⟩).isSome = true) ∧
    (ManagerHead (headed upState (mwrite 20 0 0 0)) (qp (mwrite 20 0 0 0)) [] (.mgmtWrite ⟨20, 0, 0⟩ 0) ∧
      writeRow ⟨20, 0, 0⟩ = .mgmtWrite ∧ (headed upState (mwrite 20 0 0 0)).readField ⟨20, 0, 0⟩ = none) := by
  decide +kernel
theorem test_maintenance_reads_back :
    (let t := after .trimSettingsWrite (headed upState (mwrite 7 0 5 1000))
     (t.readField ⟨7, 0, 5⟩, t.readField ⟨7, 0, 6⟩, (entryFields t 7 0)[5]?)) = (some 1000, some 1000, some 1000#32) := by
  decide +kernel
theorem test_maintenance_outcomes :
    (after .trimSettingsWrite (headed upState (mwrite 7 0 6 15))).ret.queue.map (·.body) = [.mgmtResp .badValue none] ∧
    (let t := after .noticeEnableWrite (headed noticeState (mwrite 7 0 9 1))
     (t.mgmt.notices, t.ret.noticeWait)) = ([⟨.tempOver, none, 190⟩], 8) ∧
    (let t := after .urgencyThresholdWrite (headed debtState (mwrite 7 0 0 8))
     ((t.chan 0).urgent, (t.chan 1).urgent, t.mgmt.settings.urgencyThreshold)) = (true, false, 8) := by decide +kernel

/-- Channel 0 with a running interval, a report of 20 °C taken 100 ms ago. -/
def reportState (p : Packet) : State :=
  let s := headed (chan0 activeState fun x => { x with interval := .running 0 30400 }) p
  { s with now := 400000000, mgmt := { s.mgmt with temp := { tempAtReset with last := some 40, band := .normal } } }
theorem test_w_TemperatureReportTaken :
    (∀ v : Int, v ∈ [-81, -80, 169, 170, 189, 190, 254, 255] →
      ManagerHead (reportState (mwrite 8 0 0 (BitVec.ofInt 32 v).toNat))
        (qp (mwrite 8 0 0 (BitVec.ofInt 32 v).toNat)) [] (.mgmtWrite ⟨8, 0, 0⟩ (BitVec.ofInt 32 v)) ∧
      (BitVec.ofInt 32 v).toInt = v) ∧
    ((reportState (mwrite 8 0 0 40)).chan 0).interval = .running 0 30400 ∧
    (reportState (mwrite 8 0 0 40)).mgmt.temp.last = some 40 ∧ upState.mgmt.temp.last = none ∧
    (reportState (mwrite 8 0 0 40)).mgmt.temp.band = .normal ∧ upState.mgmt.temp.band ≠ .over ∧
    upState.mgmt.settings.noticeEnable.testBit 0 = true ∧ upState.mgmt.notices = [] := by decide +kernel
theorem test_report_over :
    (let t := after .temperatureReport (reportState (mwrite 8 0 0 190))
     (t.mgmt.temp, t.mgmt.notices, t.ret.queue.map (·.body))) =
      (⟨some 190, 100, some 40, 0, .over, false, 75000, .running 400000000 4400000000⟩, [⟨.tempOver, none, 190⟩],
        [.mgmtResp .ok none]) := by decide +kernel

/-! ## Channel commands and device commands -/

/-- Channel 0 in a state, with one of its settings replaced, and a command for it at the head. -/
def commanded (st : ChanState) (i v : Nat) (p : Packet) : State :=
  headed (chan0 activeState fun x => { inState st x with settings := x.settings.withField i v }) p

theorem test_w_SettingsValidation :
    (∀ iv : Nat × Nat, iv ∈ [(0, 0), (19, 0), (21, 0), (3, 199), (12, 6207), (14, 319)] →
      ManagerHead (commanded .held iv.1 iv.2 (mcmd 1 0)) (qp (mcmd 1 0)) [] (.mgmtCommand 1 (0 : Chan).val none) ∧
      ((commanded .held iv.1 iv.2 (mcmd 1 0)).chan 0).longCmd = none ∧
      ((commanded .held iv.1 iv.2 (mcmd 1 0)).chan 0).settings.invalid = true) ∧
    (∀ iv : Nat × Nat, iv ∈ [(20, 0), (3, 200), (12, 6208), (14, 320)] →
      ((commanded .uninit iv.1 iv.2 (mcmd 1 0)).chan 0).settings.invalid = false) ∧
    ManagerHead (commanded .held 14 319 (mcmd 3 0)) (qp (mcmd 3 0)) [] (.mgmtCommand 3 (0 : Chan).val none) ∧
    ((commanded .held 14 319 (mcmd 3 0)).chan 0).state = .held ∧
    ((commanded .uninit 14 319 (mcmd 1 0)).chan 0).state = .uninit := by decide +kernel
theorem test_init_bad_timing :
    (after .init (commanded .uninit 14 319 (mcmd 1 0))).ret.queue.map (·.body) = [.mgmtResp .badTiming none] := by
  decide +kernel

theorem test_init_accepted :
    (let t := after .init (commanded .uninit 20 0 (mcmd 1 0))
     ((t.chan 0).state, (t.chan 0).powerupWait, t.ret.queue, (t.chan 0).longCmd)) =
      (.starting, .running 0 800000, [], some ⟨.init, 0, 5, 7, true⟩) := by decide +kernel

theorem test_w_HoldRetainTrimLongAccepted :
    (∀ n : Byte, n ∈ [2#8, 4#8, 6#8] →
      ManagerHead (commanded .active 20 8000 (mcmd n 0)) (qp (mcmd n 0)) [] (.mgmtCommand n.toNat (0 : Chan).val none)) ∧
    ((commanded .active 20 8000 (mcmd 2 0)).chan 0).longCmd = none ∧
    ((commanded .active 20 8000 (mcmd 2 0)).chan 0).state = .active ∧
    ((commanded .doze 20 8000 (mcmd 2 0)).chan 0).state = .doze ∧
    ((commanded .held 20 8000 (mcmd 6 0)).chan 0).state = .held := by decide +kernel
theorem test_hold_drains_at_once :
    (let t := after .hold (commanded .active 20 8000 (mcmd 2 0))
     ((t.chan 0).state, (t.chan 0).longCmd, t.ret.queue.map (·.body))) = (.held, none, [.mgmtResp .ok none]) ∧
    (let t := after .hold (commanded .doze 20 8000 (mcmd 2 0))
     ((t.chan 0).state, (t.chan 0).dozeExit, t.ret.queue)) = (.holding, .running 0 24, []) := by decide +kernel

theorem test_w_InitResumeWakeAccepted :
    (∀ n : Byte, n ∈ [1#8, 3#8, 5#8] →
      ManagerHead (commanded .held 20 8000 (mcmd n 0)) (qp (mcmd n 0)) [] (.mgmtCommand n.toNat (0 : Chan).val none)) ∧
    ((commanded .held 20 8000 (mcmd 3 0)).chan 0).longCmd = none ∧
    ((commanded .held 20 8000 (mcmd 3 0)).chan 0).state = .held ∧
    ((commanded .held 20 8000 (mcmd 3 0)).chan 0).settings.invalid = false ∧
    ((commanded .held 20 8000 (mcmd 3 0)).chan 0).settingsPending = false ∧
    ((chan0 (commanded .held 20 8000 (mcmd 3 0)) fun x => { x with settingsPending := true }).chan 0).settingsPending =
      true ∧
    ((commanded .uninit 20 0 (mcmd 1 0)).chan 0).state = .uninit ∧
    ((commanded .uninit 20 0 (mcmd 1 0)).chan 0).settings.invalid = false ∧
    ((commanded .active 20 8000 (mcmd 5 0)).chan 0).state = .active ∧
    ((commanded .doze 20 8000 (mcmd 5 0)).chan 0).state = .doze ∧
    ((commanded .retained 20 8000 (mcmd 5 0)).chan 0).state = .retained := by decide +kernel
theorem test_resume_and_wake :
    ((after .resume (commanded .held 20 8000 (mcmd 3 0))).chan 0).state = .active ∧
    ((after .wake (commanded .retained 20 8000 (mcmd 5 0))).chan 0).retainExitLong = .running 0 4400 ∧
    (after .wake (commanded .doze 20 8000 (mcmd 5 0))).ret.queue.map (·.body) = [.mgmtResp .ok none] := by decide +kernel

/-- Channel 0 with its HOLD in progress. -/
def holdingState : State :=
  chan0 activeState fun x => { inState .holding x with longCmd := some ⟨.hold, 0, 9, 2, true⟩ }
theorem test_w_SettleEndsDrainAndJudgesIdle :
    (0 : Chan) ≠ 1 ∧
    ((holdingState.chan 0).state = .holding ∧ (holdingState.chan 0).noBurst = true ∧
      (holdingState.chan 0).allClosed = true ∧ (holdingState.chan 0).pool = [] ∧
      (holdingState.chan 0).dozeExit.isRunning = false ∧
      (holdingState.chan 0).longCmd = some ⟨.hold, 0, 9, 2, true⟩) ∧
    ((activeState.chan 0).state = .active ∧ (activeState.chan 0).pool = [] ∧ (activeState.chan 0).noBurst = true ∧
      (activeState.chan 0).allClosed = true ∧ (activeState.chan 0).maint = none ∧
      (activeState.chan 0).shortTrimDue = false ∧ (activeState.chan 0).longTrimRequest = false ∧
      (activeState.chan 0).debt ≤ 0 ∧ (activeState.chan 0).dozeExit.isRunning = false ∧
      (activeState.chan 0).settings.idleTimeout ≠ 0) ∧
    (upState.chan 0).state ≠ .active := by decide +kernel
theorem test_settle_starts_idle_timer :
    ((activeState.settle 0).chan 0).idleTimer = .running 0 8000 ∧
    (holdingState.settle 0).ret.queue = [⟨0, 9, 2, .mgmtResp .ok none, false⟩] := by decide +kernel

/-- The example map as shadow tables, with a region replaced; the live tables empty. -/
def commitState (i : Fin 16) (r : Region) : State :=
  headed { mapState with map := { mapAtReset with
    shadowRegions := exampleRegions.set i r, shadowLayouts := exampleLayouts } } (mcmd 16 0)
theorem test_w_CommitMapChecksAndCommits :
    ManagerHead (commitState 0 exampleRegions[0]) (qp (mcmd 16 0)) [] (.mgmtCommand 16 0 none) ∧
    { mapAtReset with previous := 1 }.previous ≠ 0 ∧ (commitState 0 exampleRegions[0]).map.previous = 0 ∧
    -- a base off the 4 KiB grid; a layout number of 4
    (∃ r ∈ validRegions (commitState 0 { exampleRegions[0] with base := 0x1000000040 }).map.shadowRegions,
      r.base.toNat % 4096 ≠ 0) ∧
    (∃ r ∈ validRegions (commitState 0 { exampleRegions[0] with layout := 4 }).map.shadowRegions, 3 < r.layout) ∧
    -- region 1 from the last page of region 0 on
    (∃ a : HostAddr, exampleRegions[0].base ≤ a ∧ a ≤ exampleRegions[0].limit ∧
      ({ exampleRegions[1] with base := 0x10000FF000 } : Region).base ≤ a ∧ a ≤ exampleRegions[1].limit) ∧
    -- the last row of region 1 is row 65536 where its first is 65529
    (∃ r ∈ validRegions (commitState 1 { exampleRegions[1] with rowBase := 65529 }).map.shadowRegions,
      footprint exampleLayouts r 1 = some (65529, 65536)) ∧
    ((commitState 1 { exampleRegions[1] with rowBase := 65529 }).chan 1).settings.rowsPerBank ≤ 65536 ∧
    -- region 1 from the last row of region 0 on
    aliasesOn exampleLayouts exampleRegions[0] { exampleRegions[1] with rowBase := 107 } 1 = true ∧
    aliasesOn exampleLayouts exampleRegions[0] exampleRegions[1] 1 = false := by
  refine ⟨by decide +kernel, by decide, by decide +kernel, by decide +kernel, by decide +kernel,
    ⟨0x10000FF000, by decide +kernel⟩, by decide +kernel, by decide +kernel, by decide +kernel, by decide +kernel⟩
theorem test_commit_codes :
    let code := fun (s : State) => (after .commitMap s).ret.queue.map (·.body)
    code (commitState 0 { exampleRegions[0] with base := 0x1000000040 }) = [.mgmtResp .badLayout none] ∧
    code (commitState 1 { exampleRegions[1] with base := 0x10000FF000 }) = [.mgmtResp .overlap none] ∧
    code (commitState 1 { exampleRegions[1] with rowBase := 65529 }) = [.mgmtResp .outOfRows none] ∧
    code (commitState 1 { exampleRegions[1] with rowBase := 107 }) = [.mgmtResp .alias_ none] ∧
    code (commitState 1 exampleRegions[1]) = [.mgmtResp .ok none] := by decide +kernel

theorem test_w_CopyLiveToShadow :
    ManagerHead (headed mapState (mcmd 17 9)) (qp (mcmd 17 9)) [] (.mgmtCommand 17 9 none) := by decide +kernel

theorem test_w_ClearCommands :
    ManagerHead (headed noticeState (mcmd 18 0)) (qp (mcmd 18 0)) [] (.mgmtCommand 18 0 none) ∧
    ManagerHead (headed noticeState (mcmd 19 0)) (qp (mcmd 19 0)) [] (.mgmtCommand 19 0 none) ∧
    (∀ v : Nat, v ∈ [0, 1, 2, 3, 4] →
      ManagerHead (headed noticeState (mcmdArg 19 0 v)) (qp (mcmdArg 19 0 v)) []
        (.mgmtCommand 19 0 (some (BitVec.ofNat 32 v)))) ∧
    (2#32).getLsbD (0 : Chan).val = false ∧ (2#32).getLsbD (1 : Chan).val = true := by decide +kernel
theorem test_clear_one_channel :
    (let s := (activeState.modChan 0 fun x => { x with counters := { countersAtReset with opens := 3 } }).modChan 1
        fun x => { x with counters := { countersAtReset with opens := 4 } }
     let t := after .clearCounters (headed s (mcmdArg 19 0 2))
     ((t.chan 0).counters.opens, (t.chan 1).counters.opens)) = (3, 0) := by decide +kernel

/-- A FUNCTION_RESET of stream 0 ahead of another packet, with a READ in a pool and an issued read in flight. -/
def resetState : State :=
  let s := headed slotState (mcmd 20 0)
  { s with intake := { s.intake with queue := s.intake.queue ++ [qp flushPkt], tags := [(0, 5), (1, 3), (2, 7)] } }
theorem test_w_FunctionResetClearsRequestSide :
    ManagerHead resetState (qp (mcmd 20 0)) [qp flushPkt] (.mgmtCommand 20 0 none) ∧
    (resetState.chan 0).longCmd = none ∧ (resetState.chan 1).longCmd = none ∧
    ((busyChannel .held resetState).chan 0).longCmd ≠ none := by decide +kernel
theorem test_function_reset :
    (let t := after .functionReset resetState
     (t.intake.tags, t.link.owed, t.ret.slots[0], t.ret.slots[1], t.ret.slots[3])) =
      ([(0, 5)], 2, .free, .discard ⟨1, 4, 1, 0, 1, 2, 9⟩, .free) ∧
    (let t := after .functionReset resetState
     ((t.chan 0).writeBurst.map (·.discard), t.map.current, t.map.previous)) = (some true, 2, 2) ∧
    (after .functionReset (busyChannel .held resetState)).ret.queue.map (·.body) =
      [.readData 0 3, .writeDone 0 0, .mgmtResp .busy none] := by decide +kernel

/-! ## The selector and the DRAM commands -/

/-- Channel 0 in a state, with bank 2 and the pool given, at time 1000. -/
def served (st : ChanState) (k : Bank) (pool : List PoolEntry) : State :=
  later 1000 (chan0 activeState fun x => { inState st x with banks := x.banks.set 2 k, pool := pool })
def readEntry : PoolEntry := entry (.read 0)
/-- No entry waits for bank 2's open row, whose hold has expired. -/
def idleOpen : Bank := { openBank 9 with holdExpired := true }

theorem test_w_OpenAndCloseIssued :
    (served .active bankAtReset [readEntry]).grant 0 = some (.openRow 2 9) ∧
    (served .active (openBank 8) [readEntry]).grant 0 = some (.closeBank 2) ∧
    (((served .active (openBank 8) [readEntry]).chan 0).bank 2).state = .opened 8 := by decide +kernel
theorem test_open_then_close :
    (let t := after (.openRow 0) (served .active bankAtReset [readEntry])
     (((t.chan 0).bank 2).state, (t.chan 0).window, t.grant 0)) = (.opening 9, [⟨1000, 1128⟩], none) ∧
    (let t := after (.closeBank 0) (served .active (openBank 8) [readEntry])
     (((t.chan 0).bank 2).state, ((t.chan 0).bank 2).transition)) = (.closing 8, .running 1000 1056) := by
  decide +kernel

/-- An older entry of bank 2 for another row, passed over seven times. -/
def passedEntry : PoolEntry := { readEntry with row := 4, bypass := 7 }
theorem test_w_ColumnCommandsIssued :
    (served .active (openBank 9) [passedEntry, readEntry]).grant 0 = some (.column 1) ∧
    ((served .active (openBank 9) [passedEntry, readEntry]).chan 0).pool[1]? = some readEntry ∧
    (served .active (openBank 9) [writeEntry]).grant 0 = some (.column 0) ∧
    ((served .active (openBank 9) [writeEntry]).chan 0).pool[0]? = some writeEntry ∧ (0 : Chan) ≠ 1 := by decide +kernel
theorem test_read_starves_older :
    (let t := after (.readColumnCommand 0 []) (served .active (openBank 9) [passedEntry, readEntry])
     (t.chan 0).pool) = [{ passedEntry with bypass := 8, starved := true }] := by decide +kernel
theorem test_write_stores_enabled_words :
    (let t := after (.writeColumnCommand 0) (served .active (openBank 9) [writeEntry])
     ((t.chan 0).dram.map (·.1), (t.chan 0).pool, t.ret.queue.map (·.body), ((t.chan 0).bank 2).rowHold)) =
      ([wordAddress 2 9 4 0, wordAddress 2 9 4 7], [], [.writeDone 0 0], .running 1000 3000) := by decide +kernel

theorem test_w_MaintenanceIssued :
    (chan0 activeState fun x => { x with debt := 1 }).grant 0 = some (.refresh false) ∧
    activeState.grant 0 = some (.refresh true) ∧
    (chan0 activeState fun x => { x with shortTrimDue := true }).grant 0 = some .shortTrim ∧
    (chan0 activeState fun x => { x with longTrimRequest := true }).grant 0 = some .longTrim ∧
    (chan0 activeState fun x => { inState .starting x with seqStep := .settingsWrite }).grant 0 = some .settingsWrite ∧
    (chan0 activeState fun x => { inState .retainPending x with
      longCmd := some ⟨.retain, 0, 9, 2, true⟩ }).grant 0 = some .retentionEntry := by decide +kernel
theorem test_retention_entry :
    (let t := after (.retentionEntryStep 0) (chan0 activeState fun x => { inState .retainPending x with
        longCmd := some ⟨.retain, 0, 9, 2, true⟩ })
     ((t.chan 0).state, t.ret.queue)) = (.retained, [⟨0, 9, 2, .mgmtResp .ok none, false⟩]) ∧
    ((after (.refresh 0) activeState).chan 0).counters.pullIns = 1 := by decide +kernel

theorem test_w_ServingGrants :
    (served .holding bankAtReset [readEntry]).grant 0 = some (.openRow 2 9) ∧
    (served .held (openBank 8) [readEntry]).grant 0 = some (.closeBank 2) ∧
    (served .active idleOpen []).grant 0 = some (.closeBank 2) ∧
    (served .retainPending (openBank 9) [writeEntry]).grant 0 = some (.column 0) := by decide +kernel
/-- The fourth and the seventh law: a full window list grants no open; a read waits behind a write of its line. -/
theorem test_nothing_granted :
    (chan0 (served .active bankAtReset [readEntry]) fun x =>
      { x with window := List.replicate 4 ⟨990, 1100⟩ }).grant 0 = none ∧
    (chan0 (served .active (openBank 9) [writeEntry, readEntry]) fun x =>
      { x with readToWrite := .running 990 1010 }).grant 0 = none ∧
    (chan0 (served .active (openBank 9) [readEntry]) fun x => { x with urgent := true }).grant 0 = some (.closeBank 2) := by
  decide +kernel

theorem test_w_MaintenanceGrants :
    (chan0 activeState fun x => { x with debt := 6, urgent := true }).grant 0 = some (.refresh false) ∧
    (chan0 activeState fun x => { x with debt := -7 }).grant 0 = some (.refresh true) ∧
    (chan0 activeState fun x => { x with debt := -8 }).grant 0 = none ∧
    ((activeState.chan 0).allClosed = true ∧ (activeState.chan 0).maint = none ∧
      (activeState.chan 0).dozeExit.isRunning = false) ∧
    (chan0 activeState fun x => { inState .waking x with seqStep := .longTrim, debt := 1, urgent := true }).grant 0 =
      some (.refresh false) := by decide +kernel

/-! ## Expiries, burst ends and completions -/

/-- A bank with every timer running, due at 1000. -/
def timedBank (st : BankState) : Bank :=
  let r := Timer.running 900 1000
  ⟨st, r, r, r, false, r, r, false, true⟩
theorem test_w_BankTimersExpire :
    (served .active (timedBank (.opening 3)) []).now = 1000 ∧
    (((served .active (timedBank (.opening 3)) []).chan 0).bank 2).state = .opening 3 ∧
    (((served .active (timedBank (.opening 3)) []).chan 0).bank 2).transition = .running 900 1000 ∧
    (((served .active (timedBank (.closing 3)) []).chan 0).bank 2).state = .closing 3 ∧
    (((served .active (timedBank (.closing 3)) []).chan 0).bank 2).openMin = .running 900 1000 ∧
    (((served .active (timedBank (.closing 3)) []).chan 0).bank 2).openCycle = .running 900 1000 ∧
    (((served .active (timedBank (.closing 3)) []).chan 0).bank 2).writeRecovery = .running 900 1000 ∧
    (((served .active (timedBank (.closing 3)) []).chan 0).bank 2).rowHold = .running 900 1000 := by decide +kernel
theorem test_expiry_not_due :
    after (.openToAccessExpiry 0 2) (later 999 (served .active (timedBank (.opening 3)) [])) =
      later 999 (served .active (timedBank (.opening 3)) []) := by decide +kernel

/-- Channel 0 with its bus busy and every bus timer due at 1000; a window entry that is not due before one that is. -/
def busState (discard : Bool) : State :=
  later 1000 (chan0 activeState fun x =>
    let r := Timer.running 900 1000
    { x with columnSpacing := r, writeToRead := r, readToWrite := r, openSpacing := r,
             window := [⟨880, 1001⟩, ⟨900, 1000⟩, ⟨901, 1000⟩], readBurst := some 1000,
             writeBurst := some ⟨2, 1, 3, 0, 0, discard, 1000⟩ })
theorem test_w_BusTimersExpire :
    ((busState false).chan 0).columnSpacing = .running 900 1000 ∧
    ((busState false).chan 0).writeToRead = .running 900 1000 ∧
    ((busState false).chan 0).readToWrite = .running 900 1000 ∧
    ((busState false).chan 0).openSpacing = .running 900 1000 ∧
    ((busState false).chan 0).window = [⟨880, 1001⟩] ++ ⟨900, 1000⟩ :: [⟨901, 1000⟩] ∧
    (∀ w ∈ ([⟨880, 1001⟩] : List WindowEntry), (busState false).now < w.expires) ∧
    ((busState false).chan 0).readBurst = some 1000 ∧
    ((busState true).chan 0).writeBurst = some ⟨2, 1, 3, 0, 0, true, 1000⟩ ∧
    ((busState false).chan 0).writeBurst = some ⟨2, 1, 3, 0, 0, false, 1000⟩ := by decide +kernel
theorem test_write_burst_ends :
    (let t := after (.writeBurstEnd 0) (busState false)
     ((t.chan 0).writeBurst, (t.chan 0).writeToRead, ((t.chan 0).bank 2).writeRecovery)) =
      (none, .running 1000 1032, .running 1000 1064) := by decide +kernel

/-- Word 0 clean, word 1 with one changed bit, word 2 with two. -/
def arrivingWords : Vector StoredWord 8 :=
  ((Vector.replicate 8 ⟨6, 6, 0⟩).set 1 ⟨7, 6, 0⟩).set 2 ⟨6, 6, 2⟩
def arrivalState (slot : Slot) : State :=
  (later 1000 (chan0 activeState fun x => { x with issued := [⟨5, arrivingWords, 1000⟩] })).setSlot 5 slot
def arrivingRead : ReadRecord := ⟨1, 3, 0, 0, 0, 2, 9⟩
theorem test_w_ReadDataArrives :
    ((arrivalState (.reserved arrivingRead)).chan 0).issued = [⟨5, arrivingWords, 1000⟩] ∧
    ((arrivalState (.reserved arrivingRead)).chan 0).readBurst = none ∧
    (arrivalState (.reserved arrivingRead)).ret.slots[(5 : SlotIx)] = .reserved arrivingRead ∧
    (arrivalState (.discard arrivingRead)).ret.slots[(5 : SlotIx)] = .discard arrivingRead ∧
    (arrivalState (.reserved arrivingRead)).mgmt.notices = [] ∧
    (arrivalState (.reserved arrivingRead)).mgmt.settings.noticeEnable.testBit 6 = true := by decide +kernel
theorem test_read_checked :
    (let t := after (.readCompletion 0) (arrivalState (.reserved arrivingRead))
     (t.ret.slots[5], t.mgmt.notices, (t.chan 0).counters.correctedWords, (t.chan 0).counters.poisonedWords)) =
      (.filled arrivingRead (Vector.replicate 8 6) 4, [⟨.poisoned, some 0, 131081⟩], 1, 1) := by decide +kernel

/-- Channel 0 with a debt, a state and a due interval timer. -/
def accountState (d : Int) (st : ChanState) : State :=
  later 1000 (chan0 activeState fun x =>
    { inState st x with debt := d, urgent := decide (6 ≤ d), interval := .running 0 1000 })
def refreshing (d : Int) (st : ChanState) (step : SeqStep) : State :=
  later 1000 (chan0 activeState fun x => { inState st x with debt := d, seqStep := step, maint := some ⟨.refresh, 1000⟩ })
theorem test_w_RefreshAccountCounts :
    (∀ d : Int, d ∈ [7, 8] → ((accountState d .active).chan 0).interval = .running 0 1000 ∧
      ((accountState d .active).chan 0).debt = d) ∧
    (∀ d : Int, d ∈ [-1, 0] → ((accountState d .doze).chan 0).state = .doze ∧
      ((accountState d .doze).chan 0).debt = d) ∧
    ((refreshing 1 .waking .longTrim).chan 0).maint = some ⟨.refresh, 1000⟩ ∧
    ((refreshing 1 .waking .longTrim).chan 0).seqStep ≠ .shortExit ∧
    ((refreshing 1 .waking .shortExit).chan 0).state = .waking ∧
    ((refreshing 1 .retained .none).chan 0).state = .retained := by decide +kernel
theorem test_refresh_overdue :
    (let t := after (.refreshIntervalExpiry 0) (accountState 8 .active)
     ((t.chan 0).debt, (t.chan 0).counters.overdue, t.mgmt.fault, (t.chan 0).interval)) =
      (8, 1, some ⟨.refreshOverdue, some 0, 1, 1⟩, .running 1000 16200) ∧
    (let t := after (.refreshIntervalExpiry 0) (accountState 0 .doze)
     ((t.chan 0).debt, (t.chan 0).state)) = (1, .active) := by decide +kernel

def trimState (st : ChanState) (step : SeqStep) (op : MaintOp) (exit : Timer) : State :=
  later 1000 (chan0 activeState fun x => { inState st x with
    seqStep := step, maint := some ⟨op, 1000⟩, trimTimer := .running 0 1000, graceTimer := .running 0 1000
    shortTrimDue := true, longTrimRequest := true, retainExitLong := exit })
theorem test_w_TrimTimersAndCompletions :
    ((trimState .active .none .shortTrim .stopped).chan 0).trimTimer = .running 0 1000 ∧
    ((trimState .doze .none .shortTrim .stopped).chan 0).state = .doze ∧
    ((trimState .active .none .shortTrim .stopped).chan 0).graceTimer = .running 0 1000 ∧
    ((trimState .active .none .shortTrim .stopped).chan 0).shortTrimDue = true ∧
    ((trimState .active .none .shortTrim .stopped).chan 0).maint = some ⟨.shortTrim, 1000⟩ ∧
    ((trimState .waking .longExit .shortTrim .stopped).chan 0).seqStep = .longExit ∧
    ((trimState .waking .longTrim .shortTrim .stopped).chan 0).seqStep ≠ .longExit ∧
    ((trimState .starting .longTrim .longTrim .stopped).chan 0).maint = some ⟨.longTrim, 1000⟩ ∧
    ((trimState .waking .longTrim .longTrim .expired).chan 0).retainExitLong = .expired ∧
    ((trimState .waking .longTrim .longTrim (.running 0 4400)).chan 0).retainExitLong ≠ .expired ∧
    ((trimState .held .none .longTrim .stopped).chan 0).longTrimRequest = true := by decide +kernel
theorem test_trim_completions :
    ((after (.longTrimCompletion 0) (trimState .waking .longTrim .longTrim (.running 0 4400))).chan 0).seqStep =
      .longExit ∧
    ((after (.longTrimCompletion 0) (trimState .starting .longTrim .longTrim .stopped)).chan 0).state = .active ∧
    ((after (.trimTimerExpiry 0) (trimState .doze .none .shortTrim .stopped)).chan 0).dozeExit = .running 1000 1024 := by
  decide +kernel

/-- A current epoch of 3 with one request left of the epoch before. -/
def oldEpochState : State := { upState with map := { mapAtReset with epoch := 3, current := 1, previous := 1 } }
theorem test_w_SharedEndings :
    (holdingState.chan 0).longCmd = some ⟨.hold, 0, 9, 2, true⟩ ∧
    ((chan0 holdingState Channel.unanswerable).chan 0).longCmd = some ⟨.hold, 0, 9, 2, false⟩ ∧
    (activeState.chan 0).longCmd = none ∧
    upState.mgmt.settings.noticeEnable.testBit NoticeKind.poisoned.number = true ∧ upState.mgmt.notices = [] ∧
    (∃ m ∈ noticeState.mgmt.notices, m.kind = .poisoned ∧ m.chan = some 1) ∧
    (254 : Nat).testBit NoticeKind.tempOver.number = false ∧
    oldEpochState.map.epoch = 3 ∧ (2 : Epoch) ≠ 3 ∧ oldEpochState.map.previous = 1 := by decide +kernel
theorem test_notice_set :
    (oldEpochState.retire 2).mgmt.notices = [⟨.mapDrained, none, 2⟩] ∧
    (noticeState.raiseNotice ⟨.refreshOverdue, some 1, 0⟩).mgmt.notices.map (·.kind) =
      [.tempOver, .refreshOverdue, .poisoned, .poisoned] := by decide +kernel

def staleState (b : Band) : State :=
  let s := reportState (mwrite 8 0 0 40)
  { s with mgmt := { s.mgmt with temp := { s.mgmt.temp with band := b, staleTimer := .running 0 400000000 } } }
theorem test_w_StaleTimerExpires :
    (staleState .normal).mgmt.temp.staleTimer = .running 0 400000000 ∧ (staleState .normal).now = 400000000 ∧
    (staleState .normal).mgmt.temp.last = some 40 ∧ (staleState .normal).mgmt.temp.band = .normal ∧
    (staleState .over).mgmt.temp.band ≠ .normal ∧ ((staleState .normal).chan 0).interval = .running 0 30400 ∧
    (staleState .normal).mgmt.settings.noticeEnable.testBit 1 = true ∧ (staleState .normal).mgmt.notices = [] := by
  decide +kernel
theorem test_stale :
    (let t := after .staleTimerExpiry (staleState .normal)
     (t.mgmt.temp.stale, t.mgmt.temp.band, t.mgmt.notices)) = (true, .hot, [⟨.tempStale, none, 40⟩]) := by decide +kernel

def sequenceState (st : ChanState) (step : SeqStep) (m : Option Maint) : State :=
  later 1000 (chan0 activeState fun x =>
    let r := Timer.running 0 1000
    { inState st x with seqStep := step, maint := m, idleTimer := r, dozeExit := r, powerupWait := r,
                        retainExitShort := r, retainExitLong := r, longCmd := some ⟨.resume, 0, 9, 2, true⟩ })
theorem test_w_ChannelSequencesStep :
    ((sequenceState .active .none none).chan 0).idleTimer = .running 0 1000 ∧
    ((sequenceState .active .none none).chan 0).state = .active ∧
    ((sequenceState .active .none none).chan 0).dozeExit = .running 0 1000 ∧
    ((sequenceState .starting .powerup none).chan 0).powerupWait = .running 0 1000 ∧
    ((sequenceState .starting .powerup (some ⟨.settingsWrite, 1000⟩)).chan 0).maint = some ⟨.settingsWrite, 1000⟩ ∧
    ((sequenceState .held .none (some ⟨.settingsWrite, 1000⟩)).chan 0).state = .held ∧
    ((sequenceState .waking .shortExit none).chan 0).retainExitShort = .running 0 1000 ∧
    ((sequenceState .waking .longExit none).chan 0).retainExitLong = .running 0 1000 ∧
    ((sequenceState .waking .longExit none).chan 0).seqStep = .longExit ∧
    ((sequenceState .waking .longTrim none).chan 0).seqStep ≠ .longExit := by decide +kernel
theorem test_sequences :
    ((after (.idleTimerExpiry 0) (sequenceState .active .none none)).chan 0).state = .doze ∧
    (let t := after (.settingsWriteCompletion 0) (sequenceState .held .none (some ⟨.settingsWrite, 1000⟩))
     ((t.chan 0).state, t.ret.queue.map (·.body))) = (.active, [.mgmtResp .ok none]) ∧
    ((after (.retainExitLongExpiry 0) (sequenceState .waking .longExit none)).chan 0).state = .active := by decide +kernel

/-! ## Shared operations -/

theorem test_w_FaultRecordKeepsFirst :
    upState.mgmt.fault = none ∧ noticeState.mgmt.fault = some ⟨.overrun, none, 70, 255⟩ ∧
    { noticeState.mgmt with fault := some ⟨.overrun, none, 70, 254⟩ }.fault = some ⟨.overrun, none, 70, 254⟩ := by
  decide +kernel
theorem test_fault_count_stops :
    (noticeState.raiseBoth ⟨.tagReuse, none, 3⟩).mgmt.fault = some ⟨.overrun, none, 70, 255⟩ := by decide +kernel

/-- The rate zero, the two clamps and the value between them. -/
theorem test_w_TrimIntervalComputed :
    trimIntervalOf maintAtReset 0 = 1000 ∧ trimIntervalOf { maintAtReset with trimReach := 1 } 1000 = 16 ∧
    trimIntervalOf { maintAtReset with trimReach := 100000 } 1 = 1000 ∧ trimIntervalOf maintAtReset 300 = 166 := by
  decide +kernel

theorem test_w_TrimRecomputation :
    trimIntervalOf trimExample 50 ≠ (trimming 0).trimInterval ∧ trimIntervalOf trimExample 0 = (trimming 0).trimInterval ∧
    153 * 4000000 ≤ 640000000 - 0 ∧ 640000000 - 400000000 < 153 * 4000000 ∧
    (trimming 400000000).trimTimer = .running 400000000 1200000000 ∧
    (inState .doze (trimming 0)).state = .doze ∧ ({ trimming 0 with trimTimer := .stopped }).trimTimer = .stopped := by
  decide +kernel

/-! ## Boundary witnesses: one per clause of the wide statements -/

theorem test_due_step_idles :
    (match step activeState with
      | .next t => decide (t = activeState)
      | _ => false) = true := by decide +kernel
theorem test_w_StepRunsFrontCommand_due : WorkDue activeState :=
  .inl ⟨0, _, rfl, .inr (.inr (.inr (.inr (.inr (.inr (.inr (.inr ⟨.refresh true, by decide +kernel⟩)))))))⟩
theorem test_w_StepRunsFrontCommand_quiet : ¬WorkDue State.reset := by
  rintro (⟨c, x, rfl, h⟩ | ⟨q, rest, h, _⟩ | h | h)
  · have hx : State.reset.chan c = channelAtReset 0 := by fin_cases c <;> rfl
    have hg : State.reset.grant c = none := by fin_cases c <;> decide +kernel
    rw [hx, hg] at h
    have hb : ∀ b, (channelAtReset 0).bank b = bankAtReset := by decide +kernel
    rcases h with ⟨t, ht, h⟩ | ⟨h, _⟩ | ⟨w, h, _⟩ | ⟨w, h, _⟩ | ⟨_, r, rs, h, _⟩ | ⟨w, h, _⟩ | ⟨w, h, _⟩ | ⟨b, h⟩ | ⟨g, h⟩
    · revert t; decide +kernel
    · cases h
    · cases h
    · cases h
    · cases h
    · cases h
    · cases h
    · rw [hb] at h
      rcases h with ⟨h, _⟩ | ⟨t, ht, h⟩
      · cases h
      · revert t; decide +kernel
    · cases h
  · cases h
  · cases h
  · cases h

/-- One request of the epoch before is left: a WRITE of channel 1's pool. -/
def lastOfEpoch : State :=
  let s := activeState.modChan 1 fun x => { x with pool := [{ writeEntry with epoch := 15 }] }
  { s with map := { s.map with previous := 1 } }
theorem test_w_LinkResetClearsRequestSide_slots :
    slotState.link.state = .up ∧ lastOfEpoch.link.state = .up ∧ slotState.map.previous ≠ 0 ∧
    (let t := after (.resetLink []) slotState
     (t.ret.slots[0], t.ret.slots[2], t.ret.slots[3], t.map.current, t.map.previous, t.mgmt.notices)) =
      (.free, .discard ⟨1, 3, 0, 15, 0, 2, 9⟩, .free, 2, 2, []) ∧
    (let t := after (.hello []) lastOfEpoch
     (t.map.previous, t.mgmt.notices)) = (0, [⟨.mapDrained, none, 15⟩]) := by decide +kernel

theorem test_w_LinkControlInUp_failure :
    replayingState.link.state = .up ∧ 4 ≤ replayingState.link.attempts ∧
    (let t := after (.nak [40, 1, 2, 3]) replayingState
     (t.link.state, t.link.replay, t.mgmt.fault)) = (.training, [], some ⟨.replayFail, none, 40, 1⟩) := by decide +kernel

/-- A packet of each kind with its payload one byte short or long, or with a reserved field not zero. -/
theorem test_w_RefusedAtTheTaking_malformed :
    ∀ p : Packet, p ∈ [pkt 0x00 [], pkt 0x07 [], pkt 0x01 (List.replicate 7 0), pkt 0x01 (List.replicate 9 0),
      pkt 0x01 [0, 0, 0, 0, 0, 1, 0, 0], pkt 0x01 [0, 0, 0, 0, 0, 0, 0, 1], pkt 0x02 (List.replicate 71 0),
      pkt 0x02 (List.replicate 73 0), pkt 0x02 ([0, 0, 0, 0, 0, 0, 1] ++ List.replicate 65 0), pkt 0x03 [0],
      pkt 0x04 [0, 0, 0], pkt 0x04 [0, 0, 0, 1], pkt 0x05 [0, 0, 0, 0, 0, 0, 0], pkt 0x05 [0, 0, 0, 1, 0, 0, 0, 0],
      pkt 0x06 [1, 0, 0, 0, 0, 0, 0], pkt 0x06 [1, 0, 2, 0, 0, 0, 0, 0], pkt 0x06 [1, 0, 0, 1, 0, 0, 0, 0],
      pkt 0x06 [1, 0, 0, 0, 0, 0, 0, 1]] → Malformed p ∧ requestOf p = .malformed := by
  unfold Malformed
  decide +kernel
theorem test_w_RefusedAtTheTaking_formed :
    ∀ p : Packet, p ∈ [readPkt 0x1000001A40, writePkt onZero 0, flushPkt, mread 255 255 255, mwrite 255 255 255 7,
      mcmd 255 255, mcmdArg 19 0 0xFFFFFFFF] → ¬Malformed p ∧ requestOf p ≠ .malformed := by
  unfold Malformed
  decide +kernel

/-- The last field of each table, and one past it; and one entry past each table's last. -/
theorem test_w_ManagementReads_bounds :
    (∀ a : Nat × Nat × Nat, a ∈ [(0, 0, 9), (1, 3, 5), (2, 15, 8), (3, 15, 8), (4, 3, 1), (5, 3, 1), (6, 1, 22), (7, 0, 9),
      (8, 0, 5), (9, 1, 6), (10, 1, 8), (11, 0, 4), (12, 0, 2), (13, 0, 12)] →
      ((entryFields noticeState a.1 a.2.1)[a.2.2]?).isSome = true ∧
      (entryFields noticeState a.1 a.2.1)[a.2.2]? =
        (noticeState.readField ⟨a.1, a.2.1, a.2.2⟩).map (BitVec.ofNat 32) ∧
      (entryFields noticeState a.1 a.2.1).length ≤ a.2.2 + 1 ∧
      entryFields noticeState a.1 (a.2.1 + 1) = []) ∧
    entryFields noticeState 14 0 = [] := by decide +kernel

theorem test_w_TableWrites_badIndex :
    (∀ f : Byte, f ∈ [0#8, 1#8, 2#8] →
      ManagerHead (headed upState (mwrite 1 4 f 1)) (qp (mwrite 1 4 f 1)) [] (.mgmtWrite ⟨1, 4, f.toNat⟩ 1)) ∧
    (∀ f : Byte, f ∈ [0#8, 22#8] →
      ManagerHead (headed upState (mwrite 6 2 f 1)) (qp (mwrite 6 2 f 1)) [] (.mgmtWrite ⟨6, 2, f.toNat⟩ 1)) ∧
    ManagerHead (headed upState (mwrite 7 1 0 1)) (qp (mwrite 7 1 0 1)) [] (.mgmtWrite ⟨7, 1, 0⟩ 1) ∧
    ManagerHead (headed upState (mwrite 7 0 10 1)) (qp (mwrite 7 0 10 1)) [] (.mgmtWrite ⟨7, 0, 10⟩ 1) ∧
    ManagerHead (headed upState (mwrite 8 1 0 1)) (qp (mwrite 8 1 0 1)) [] (.mgmtWrite ⟨8, 1, 0⟩ 1) := by decide +kernel
theorem test_badIndex_answers :
    let code := fun (i : Instr) (p : Packet) => (after i (headed upState p)).ret.queue.map (·.body)
    code .orderModeWrite (mwrite 1 4 0 1) = [.mgmtResp .badIndex none] ∧
    code .rowsPerBankWrite (mwrite 6 2 22 1) = [.mgmtResp .badIndex none] ∧
    code .mgmtWrite (mwrite 7 0 10 1) = [.mgmtResp .badIndex none] ∧
    code .temperatureReport (mwrite 8 1 0 1) = [.mgmtResp .badIndex none] := by decide +kernel

/-- The epoch before drains at a FUNCTION_RESET, with MAP_DRAINED enabled and not. -/
theorem test_w_FunctionResetClearsRequestSide_drained :
    (let t := after .functionReset (headed lastOfEpoch (mcmd 20 0))
     (t.map.previous, t.mgmt.notices)) = (0, [⟨.mapDrained, none, 15⟩]) ∧
    (let s := headed lastOfEpoch (mcmd 20 0)
     let t := after .functionReset { s with mgmt := { s.mgmt with settings := { s.mgmt.settings with noticeEnable := 247 } } }
     (t.map.previous, t.mgmt.notices)) = (0, []) := by decide +kernel

/-- Word 3 changed twice, word 0 once: the last change of a word stands, and is what the read returns. -/
theorem test_w_ColumnCommandsIssued_changes :
    (let t := after (.readColumnCommand 0 [⟨3, 1, 0⟩, ⟨0, 5, 1⟩, ⟨3, 2, 4⟩]) (served .active (openBank 9) [readEntry])
     ((t.chan 0).dram.map fun d => (d.1, d.2.data, d.2.codeFlips)) =
        [(wordAddress 2 9 4 0, 5#64, 1), (wordAddress 2 9 4 3, 2#64, 4)] ∧
      (t.chan 0).issued.map (fun r => (r.words[3].data, r.words[0].data)) = [(2#64, 5#64)]) := by decide +kernel

theorem test_w_StaleTimerExpires_stopped :
    let s := chan0 (staleState .normal) fun x => { x with interval := .stopped }
    s.mgmt.temp.band = .normal ∧ (s.chan 0).interval.isRunning = false ∧
    (after .staleTimerExpiry s).chan 0 = s.chan 0 ∧ (after .staleTimerExpiry s).mgmt.temp.band = .hot := by decide +kernel

/-! ## The choice of the selector: one state per clause -/

/-- In a pool of one entry its step is that of the oldest, and without it there is none. -/
theorem oldest_of_one {x : Channel} {e : PoolEntry} {g : Grant} {stepOf : Nat → PoolEntry → Grant → Prop}
    (hp : x.pool = [e]) (h : stepOf 0 e g) : Oldest x stepOf g :=
  ⟨0, e, by rw [hp]; rfl, h, fun _ _ _ hj => absurd hj (Nat.not_lt_zero _)⟩

theorem noEntry_of_one {x : Channel} {e : PoolEntry} {stepOf : Nat → PoolEntry → Grant → Prop}
    (hp : x.pool = [e]) (h : ∀ g, ¬stepOf 0 e g) : NoEntry x stepOf := by
  intro i o g ho
  rw [hp] at ho
  match i, ho with
  | 0, ho => cases ho; exact h g
  | i + 1, ho => cases ho

/-- The steps of the only entry of a pool, decided by the meaning's own functions. -/
theorem not_hit {s : State} {x : Channel} {e : PoolEntry} (h : x.hitStep s.now [] 0 e = none) (g : Grant) :
    ¬HitStep s x 0 e g := fun hg => by
  have := (hitStep_iff s x 0 e g).mpr hg
  rw [List.take_zero, h] at this
  cases this
theorem not_clear {x : Channel} {e : PoolEntry} (h : x.closeStep [] 0 e = none) (g : Grant) : ¬ClearStep x 0 e g :=
  fun hg => by
    have := (closeStep_iff x 0 e g).mpr hg
    rw [List.take_zero, h] at this
    cases this
theorem not_open {s : State} {x : Channel} {e : PoolEntry} (h : x.openStep s.band [] 0 e = none) (g : Grant) :
    ¬OpenStep s x 0 e g := fun hg => by
  have := (openStep_iff s x 0 e g).mpr hg
  rw [List.take_zero, h] at this
  cases this
theorem not_mayClose {k : Bank} (h : k.mayClose = false) : ¬MayClose k := fun hk => by
  rw [(mayClose_iff k).mpr hk] at h
  cases h

/-- What every clause of the choice supposes. -/
abbrev ServesNow (x : Channel) : Prop :=
  x.state ∈ [ChanState.active, .holding, .held, .retainPending] ∧ x.dozeExit.isRunning = false ∧ x.maint = none ∧
    (x.allClosed = true → NoMaintenance x)

/-- An urgent channel with bank 2 as given and an entry for its row 9. -/
def forcedState (k : Bank) : State := chan0 (served .active k [readEntry]) fun x => { x with urgent := true }
theorem test_w_ServingGrants_forced :
    (ServesNow ((forcedState (openBank 9)).chan 0) ∧ Forced ((forcedState (openBank 9)).chan 0) ∧
      Lowest (fun b => MayClose (((forcedState (openBank 9)).chan 0).bank b)) 2) ∧
    (ServesNow ((forcedState { openBank 9 with writeBurst := true }).chan 0) ∧
      ∀ b, ¬MayClose (((forcedState { openBank 9 with writeBurst := true }).chan 0).bank b)) := by
  refine ⟨⟨by decide +kernel, by decide +kernel, (mayClose_iff _).mp (by decide +kernel), fun b hb => not_mayClose ?_⟩,
    by decide +kernel, fun b => not_mayClose ?_⟩
  · revert b; decide +kernel
  · revert b; decide +kernel

/-- An entry passed over eight times. -/
def starvedEntry : PoolEntry := { readEntry with bypass := 8, starved := true }
theorem test_w_ServingGrants_column :
    (∀ e ∈ [starvedEntry, readEntry], ServesNow ((served .active (openBank 9) [e]).chan 0) ∧
      ¬Forced ((served .active (openBank 9) [e]).chan 0)) ∧
    Oldest ((served .active (openBank 9) [starvedEntry]).chan 0)
      (StarvedStep (served .active (openBank 9) [starvedEntry]) ((served .active (openBank 9) [starvedEntry]).chan 0))
      (.column 0) ∧
    NoEntry ((served .active (openBank 9) [readEntry]).chan 0)
      (StarvedStep (served .active (openBank 9) [readEntry]) ((served .active (openBank 9) [readEntry]).chan 0)) ∧
    Oldest ((served .active (openBank 9) [readEntry]).chan 0)
      (HitStep (served .active (openBank 9) [readEntry]) ((served .active (openBank 9) [readEntry]).chan 0)) (.column 0) :=
  ⟨by decide +kernel,
    oldest_of_one (e := starvedEntry) rfl ((starvedStep_iff _ _ _ _ _).mp (by decide +kernel)),
    noEntry_of_one (e := readEntry) rfl (fun _ h => nomatch h.1),
    oldest_of_one (e := readEntry) rfl ((hitStep_iff _ _ _ _ _).mp (by decide +kernel))⟩

theorem test_w_ServingGrants_close :
    (ServesNow ((served .active (openBank 8) [readEntry]).chan 0) ∧
      NoEntry ((served .active (openBank 8) [readEntry]).chan 0)
        (HitStep (served .active (openBank 8) [readEntry]) ((served .active (openBank 8) [readEntry]).chan 0)) ∧
      Oldest ((served .active (openBank 8) [readEntry]).chan 0)
        (ClearStep ((served .active (openBank 8) [readEntry]).chan 0)) (.closeBank 2)) ∧
    (ServesNow ((served .active idleOpen []).chan 0) ∧ ((served .active idleOpen []).chan 0).pool = [] ∧
      Lowest (IdleClose ((served .active idleOpen []).chan 0)) 2) := by
  refine ⟨⟨by decide +kernel, noEntry_of_one (e := readEntry) rfl (not_hit (by decide +kernel)),
    oldest_of_one (e := readEntry) rfl ((closeStep_iff _ _ _ _).mp (by decide +kernel))⟩,
    by decide +kernel, rfl, (closeIdle_iff _ _).mp (by decide +kernel),
    fun b hb h => absurd ((closeIdle_iff _ _).mpr h) ?_⟩
  clear h; revert b; decide +kernel

/-- The window list full, or not: an open, or nothing at all. -/
def openState (n : Nat) : State :=
  chan0 (served .active bankAtReset [readEntry]) fun x => { x with window := List.replicate n ⟨990, 1100⟩ }
theorem test_w_ServingGrants_open :
    (∀ n ∈ [3, 4], ServesNow ((openState n).chan 0) ∧ ¬Forced ((openState n).chan 0)) ∧
    (∀ n ∈ [3, 4], NoEntry ((openState n).chan 0) (StarvedStep (openState n) ((openState n).chan 0)) ∧
      NoEntry ((openState n).chan 0) (HitStep (openState n) ((openState n).chan 0)) ∧
      NoEntry ((openState n).chan 0) (ClearStep ((openState n).chan 0)) ∧
      ∀ b, ¬IdleClose ((openState n).chan 0) b) ∧
    Oldest ((openState 3).chan 0) (OpenStep (openState 3) ((openState 3).chan 0)) (.openRow 2 9) ∧
    NoEntry ((openState 4).chan 0) (OpenStep (openState 4) ((openState 4).chan 0)) ∧ BypassLaw (openState 3) := by
  refine ⟨by decide +kernel, fun n hn => ⟨noEntry_of_one (e := readEntry) rfl (fun _ h => nomatch h.1),
    noEntry_of_one (e := readEntry) rfl (not_hit ?_), noEntry_of_one (e := readEntry) rfl (not_clear ?_),
    fun b h => absurd ((mayClose_iff _).mpr h.1.1) ?_⟩,
    oldest_of_one (e := readEntry) rfl ((openStep_iff _ _ _ _ _).mp (by decide +kernel)),
    noEntry_of_one (e := readEntry) rfl (not_open (by decide +kernel)), by unfold BypassLaw; decide +kernel⟩
  · revert n; decide +kernel
  · revert n; decide +kernel
  · clear h; revert b n; decide +kernel

/-! ## The choice of maintenance: one state per branch -/

/-- Channel 0 waking; with a debt; with a RESUME and with a RETAIN that wait. -/
def inWaking (k : SeqStep) (d : Int) (u : Bool) : Channel :=
  { inState .waking (activeState.chan 0) with seqStep := k, debt := d, urgent := u }
def inDebt (d : Int) (trim : Bool) : Channel := { activeState.chan 0 with debt := d, shortTrimDue := trim }
def resuming : Channel :=
  { inState .held (activeState.chan 0) with settingsPending := true, longCmd := some ⟨.resume, 0, 9, 2, true⟩ }
def retaining : Channel :=
  { inState .retainPending (activeState.chan 0) with longCmd := some ⟨.retain, 0, 9, 2, true⟩ }
theorem test_w_MaintenanceGrants_branches :
    (UrgentMay (inWaking .longTrim 6 true) ∧ ¬UrgentMay (inWaking .shortExit 6 true)) ∧
    (¬UrgentMay resuming ∧ SettingsMay resuming) ∧
    (¬UrgentMay retaining ∧ ¬SettingsMay retaining ∧ RetentionMay retaining) ∧
    (¬UrgentMay (inWaking .longTrim 1 false) ∧ ¬SettingsMay (inWaking .longTrim 1 false) ∧
      ¬RetentionMay (inWaking .longTrim 1 false) ∧ LongTrimMay (inWaking .longTrim 1 false)) ∧
    (¬UrgentMay (inDebt 1 true) ∧ ¬LongTrimMay (inDebt 1 true) ∧ ShortTrimMay (inDebt 1 true)) ∧
    (¬ShortTrimMay (inDebt 1 false) ∧ NonUrgentMay (inDebt 1 false) ∧ ¬PullInMay (inDebt 1 false)) ∧
    (∀ d : Int, d ∈ [-7, 0] → ¬NonUrgentMay (inDebt d false) ∧ PullInMay (inDebt d false)) ∧
    NoMaintenance (inDebt (-8) false) := by decide +kernel
theorem test_maintenance_choice :
    let granted := fun (x : Channel) => (activeState.setChan 0 x).grant 0
    granted (inWaking .longTrim 6 true) = some (.refresh false) ∧ granted (inWaking .shortExit 6 true) = none ∧
    granted (inWaking .longTrim 1 false) = some .longTrim ∧ granted (inDebt 1 true) = some .shortTrim ∧
    granted resuming = some .settingsWrite ∧ granted retaining = some .retentionEntry := by decide +kernel

/-! ## Endings: answerable or not, notices pending or not -/

/-- The WRITE_DONE of the last request of the epoch before. -/
def lastSend (notices : List Notice) : State :=
  let s := respState notices 0 [⟨0, 2, 9, .writeDone 15 0, false⟩]
  { s with map := { s.map with previous := 1 } }
theorem test_w_ResponseAndNoticeSends_drained :
    (lastSend []).map.previous = 1 ∧ (15 : Epoch) ≠ (lastSend []).map.epoch ∧
    (lastSend []).mgmt.settings.noticeEnable.testBit 3 = true ∧
    (let t := after .responseSend (lastSend [])
     (t.mgmt.notices, t.ret.noticeWait, t.map.previous)) = ([⟨.mapDrained, none, 15⟩], 0, 0) ∧
    (let t := after .responseSend (lastSend [⟨.tempOver, none, 190⟩])
     (t.mgmt.notices.map (·.kind), t.ret.noticeWait)) = ([.tempOver, .mapDrained], 1) ∧
    (let t := after .responseSend (respState [] 0 [readyResponse])
     (t.mgmt.notices, t.ret.noticeWait)) = ([], 0) := by decide +kernel

/-- A replay failure with a fault recorded and notices pending. -/
def failingState : State :=
  { later 40000 replayingState with mgmt := noticeState.mgmt, ret := noticeState.ret }
theorem test_w_ReplayTimerExpires_failure :
    failingState.link.state = .up ∧ 4 ≤ failingState.link.attempts ∧
    (let t := after .replayTimerExpiry failingState
     (t.mgmt.fault, t.mgmt.notices.map (·.kind), t.ret.noticeWait)) =
      (some ⟨.overrun, none, 70, 255⟩, [.tempOver, .poisoned, .poisoned, .replayFail], 0) ∧
    noticeState.mgmt.notices ≠ [] := by decide +kernel

/-- Channel 0 with a RETAIN pending, answerable or not. -/
def retainingState (answerable : Bool) : State :=
  chan0 upState fun x => { inState .retainPending x with longCmd := some ⟨.retain, 0, 1, 1, answerable⟩ }
theorem test_w_PlacementActsByState_unanswerable :
    ((retainingState false).chan 0).longCmd = some ⟨.retain, 0, 1, 1, false⟩ ∧
    ((retainingState false).placeEntry 0 writeEntry).ret = (retainingState false).ret ∧
    ((retainingState true).placeEntry 0 writeEntry).ret.queue = [⟨0, 1, 1, .mgmtResp .cancelled none, false⟩] ∧
    (upState.chan 0).state ∉ [ChanState.doze, .retainPending, .retained] := by decide +kernel
theorem test_w_MaintenanceIssued_unanswerable :
    (retainingState false).grant 0 = some .retentionEntry ∧
    (after (.retentionEntryStep 0) (retainingState false)).ret = (retainingState false).ret := by decide +kernel
theorem test_w_SettleEndsDrain_unanswerable :
    ((chan0 holdingState Channel.unanswerable).chan 0).longCmd = some ⟨.hold, 0, 9, 2, false⟩ ∧
    ((chan0 holdingState Channel.unanswerable).settle 0).ret = holdingState.ret ∧
    (((chan0 holdingState Channel.unanswerable).settle 0).chan 0).state = .held := by decide +kernel

/-- A commit that passes with no request outstanding, and with notices pending before it. -/
theorem test_w_CommitMapChecksAndCommits_pending :
    (let s := commitState 1 exampleRegions[1]
     let t := after .commitMap { s with mgmt := noticeState.mgmt, ret := noticeState.ret }
     (t.mgmt.notices.map (·.kind), t.ret.noticeWait, t.link.owed)) =
      ([.tempOver, .mapDrained, .poisoned, .poisoned], 8, 1) := by decide +kernel

/-- A poisoned line while POISONED of its channel is pending, and while the kind is disabled. -/
theorem test_w_ReadDataArrives_pending :
    (let s := arrivalState (.reserved arrivingRead)
     let t := after (.readCompletion 0) { s with mgmt := noticeState.mgmt, ret := { s.ret with noticeWait := 8 } }
     (t.mgmt == noticeState.mgmt, t.ret.noticeWait)) = (true, 8) ∧
    (let s := arrivalState (.reserved arrivingRead)
     (after (.readCompletion 0) { s with
       mgmt := { s.mgmt with settings := { s.mgmt.settings with noticeEnable := 191 } } }).mgmt.notices) = [] := by
  decide +kernel

/-! ## A force and a hold drain (R79, R124, R125) -/

/-- A HOLD in progress, its channel at rest with a debt at the threshold, or with a short trim whose grace has expired. -/
def urgentHold : State := chan0 holdingState fun x => { x with debt := 6, urgent := true }
def graceHold : State := chan0 holdingState fun x => { x with shortTrimDue := true, graceForce := true }
theorem test_w_SettleEndsDrain_forced : (∀ s ∈ [urgentHold, graceHold], DrainConditions (s.chan 0) ∧ Forced (s.chan 0)) := by
  unfold DrainConditions AtRest; decide +kernel
/-- A force and an operation in progress continue into HELD (R80, R125). -/
theorem test_force_kept_into_held :
    (∀ s ∈ [urgentHold, graceHold], ((s.settle 0).chan 0).state = .held ∧ Forced ((s.settle 0).chan 0) ∧
      (s.settle 0).ret.queue = [⟨0, 9, 2, .mgmtResp .ok none, false⟩]) ∧
    (urgentHold.settle 0).grant 0 = some (.refresh false) ∧ (graceHold.settle 0).grant 0 = some .shortTrim ∧
    (let x := ((chan0 urgentHold fun x => { x with maint := some ⟨.refresh, 720⟩ }).settle 0).chan 0
     (x.state, x.maint)) = (.held, some ⟨.refresh, 720⟩) ∧
    (let t := after .hold (headed (chan0 activeState fun x => { x with debt := 6, urgent := true }) (mcmd 2 0))
     ((t.chan 0).state, t.ret.queue.map (·.order))) = (.held, [7]) := by decide +kernel
/-- Before that a force holds up the drain: no entry of the pool is served until its operation has run (R78, R79, R124). -/
theorem test_force_holds_up_drain :
    (let s := chan0 urgentHold fun x => { x with pool := [writeEntry] }
     (s.grant 0, ((s.settle 0).chan 0).state)) = (some (.refresh false), .holding) ∧
    (let s := chan0 urgentHold fun x => { x with pool := [writeEntry], debt := 5, urgent := false }
     s.grant 0) = some (.refresh false) ∧
    (let s := chan0 urgentHold fun x => { x with pool := [writeEntry], debt := 0, urgent := false }
     s.grant 0) = some (.openRow 2 9) := by decide +kernel

/-! ## What is carried, and where (file 02, section 2.2; file 11, section 11.3) -/

/-- A filled slot whose READ_DATA waits, and a response of each other kind. -/
def filledState : State := upState.setSlot 5 (.filled arrivingRead #v[0, 1, 2, 3, 4, 5, 6, 0x0807060504030201#64] 4)
def carried (b : RespBody) : Response := ⟨1, 3, 9, b, false⟩
theorem test_w_ResponseAndNoticeSends_carried :
    filledState.ret.slots[(5 : SlotIx)] = .filled arrivingRead #v[0, 1, 2, 3, 4, 5, 6, 0x0807060504030201#64] 4 ∧
    (filledState.packetOf (carried (.readData 0 5))).parts.2.2.2.drop 56 = [1, 2, 3, 4, 5, 6, 7, 8, 4, 0, 0, 0] ∧
    (filledState.packetOf (carried (.mgmtResp .badValue (some 0x04030201#32)))).parts =
      (0x14#8, 1, 3, [4, 1, 0, 0, 1, 2, 3, 4]) ∧
    (filledState.packetOf (carried (.mgmtResp .ok none))).parts = (0x14#8, 1, 3, [0, 0, 0, 0, 0, 0, 0, 0]) ∧
    (filledState.packetOf (carried (.errorResp .flushLimit))).parts = (0x15#8, 1, 3, [7, 0, 0, 0]) ∧
    (filledState.packetOf (carried .flushDone)).parts = (0x13#8, 1, 3, []) ∧
    (OutPacket.notice 1 .replayFail none 9).parts = (0x16#8, 1, 0, [7, 0xFF, 0, 0, 9, 0, 0, 0]) := by decide +kernel

/-- The first and last address of a region, and the addresses beside them; chunks on one channel and on none; two regions
that share a row and two that meet. -/
theorem test_w_TranslationComputed_holds :
    (exampleRegions[0].holds 0x1000000000#40, exampleRegions[0].holds 0x10000FFFFF#40,
      exampleRegions[0].holds 0x0FFFFFFFFF#40, exampleRegions[0].holds 0x1000100000#40,
      regionAtReset.holds 0) = (true, true, false, false, false) ∧
    exampleRegions[1].layout = (2 : Fin 4).val := by decide +kernel
theorem test_w_FootprintCoversRegion_exact :
    (footprint exampleLayouts exampleRegions[1] 0, footprint exampleLayouts exampleRegions[1] 1) =
      (none, some (108, 115)) ∧
    aliasesOn exampleLayouts exampleRegions[0] exampleRegions[1] 1 = false ∧
    aliasesOn exampleLayouts { exampleRegions[0] with rowBase := 101 } exampleRegions[1] 1 = true := by decide +kernel
theorem test_w_ColumnCommandsIssued_addresses :
    wordAddress 7 65535 127 7 = 536870911 ∧ wordAddress 0 0 0 0 = 0 ∧ wordAddress 1 0 0 0 = 67108864 ∧
    dramLookup [(5, ⟨1, 1, 0⟩)] 5 = some ⟨1, 1, 0⟩ := by decide +kernel
theorem test_w_ReadDataArrives_changed :
    (StoredWord.changedBits ⟨6, 6, 0⟩, StoredWord.changedBits ⟨6, 7, 0⟩, StoredWord.changedBits ⟨6, 1, 2⟩) = (0, 1, 5) := by
  decide +kernel
theorem test_w_SharedEndings_counters :
    (bump 0xFFFFFFFE, bump 0xFFFFFFFF, bumpBy 3 0xFFFFFFFE) = (0xFFFFFFFF, 0xFFFFFFFF, 0xFFFFFFFF) ∧
    (orderLater 0 65535, orderLater 5 5, orderLater 32767 0, orderLater 32768 0) = (true, false, true, false) := by
  decide +kernel

end Sys2Proof.Tests
end

section
/-! The commands of the address map: COPY_LIVE_TO_SHADOW (R31). -/

namespace Sys2Proof.Proofs

open Sys2Proof Sys2Proof.Machine Sys2Proof.Safety Sys2Proof.Laws

/-- The map is not touched by the taking of the head, so a change of it may be made before or after. -/
theorem taken_modMap (s : State) (rest : List QueuedPacket) (f : MapUnit → MapUnit) :
    (taken s rest).modMap f = taken (s.modMap f) rest := rfl

theorem exec_copyLiveToShadow (s : State) : exec .copyLiveToShadow s =
    .next (s.serveCommand .copyLiveToShadow fun q _ _ t => (t.modMap MapUnit.copyLive).answerCode q .ok) := rfl

theorem modMap_copyLive (s : State) : s.modMap MapUnit.copyLive =
    { s with map := { s.map with shadowRegions := s.map.liveRegions, shadowLayouts := s.map.liveLayouts } } := rfl

/-- Settles O42: the head is a manager's, so the command is served; the copy commutes with the taking of the head, and
the answer then is the one of a taken packet. -/
theorem copyLiveToShadow : Obligations.CopyLiveToShadow := by
  intro s q rest ch v hhead
  have hserved : s.serveCommand .copyLiveToShadow
      (fun q _ _ t => (t.modMap MapUnit.copyLive).answerCode q .ok) =
      ((taken s rest).modMap MapUnit.copyLive).answerCode q .ok := serveCommand_of_manager hhead rfl _
  rw [exec_copyLiveToShadow, hserved, taken_modMap, answerCode_taken, modMap_copyLive]

end Sys2Proof.Proofs
end

section
/-! The trim interval (R105): the model's exact division is the rule's division by the rational rate, and what a
recomputation leaves in both channels. -/

namespace Sys2Proof.Proofs

open Sys2Proof Sys2Proof.Machine Sys2Proof.Safety Sys2Proof.Laws

/-- The denominator of R105's exact form: a hundred times the rate. -/
def trimDenominator (m : MaintSettings) (td : Nat) : Nat := m.tempSens * td + 100 * m.voltSens * m.voltDrift

theorem trimIntervalOf_of_denominator_zero {m : MaintSettings} {td : Nat} (h : trimDenominator m td = 0) :
    trimIntervalOf m td = m.trimMaxMs := if_pos h

theorem trimIntervalOf_of_denominator_ne_zero {m : MaintSettings} {td : Nat} (h : trimDenominator m td ≠ 0) :
    trimIntervalOf m td = clamp m.trimMinMs m.trimMaxMs (100000 * m.trimReach / trimDenominator m td) := if_neg h

/-- The rate of R105 over the rationals: nothing inside it is rounded. -/
theorem rate_eq_denominator_div (m : MaintSettings) (td : Nat) :
    (m.tempSens : ℚ) * td / 100 + (m.voltSens : ℚ) * m.voltDrift = (trimDenominator m td : ℚ) / 100 := by
  unfold trimDenominator
  push_cast
  ring

theorem rate_eq_zero_iff {m : MaintSettings} {td : Nat} :
    (trimDenominator m td : ℚ) / 100 = 0 ↔ trimDenominator m td = 0 := by
  simp

/-- The two forms of R105's quotient have the same floor: both sides of the fraction are multiplied by a hundred. -/
theorem floor_reach_div_rate (r d : Nat) : ⌊1000 * (r : ℚ) / ((d : ℚ) / 100)⌋ = ((100000 * r / d : Nat) : ℤ) := by
  have hfrac : 1000 * (r : ℚ) / ((d : ℚ) / 100) = ((100000 * r : Nat) : ℚ) / (d : ℚ) := by
    rw [div_div_eq_mul_div]
    push_cast
    ring
  rw [hfrac, Rat.floor_natCast_div_natCast, Int.natCast_div]

theorem clamp_of_lt {lo hi x : Nat} (h : x < lo) : clamp lo hi x = lo := if_pos h

theorem clamp_of_gt {lo hi x : Nat} (hlo : lo ≤ x) (hhi : hi < x) : clamp lo hi x = hi := by
  rw [clamp, if_neg hlo.not_gt, if_pos hhi]

theorem clamp_of_mem {lo hi x : Nat} (hlo : lo ≤ x) (hhi : x ≤ hi) : clamp lo hi x = x := by
  rw [clamp, if_neg hlo.not_gt, if_neg hhi.not_gt]

/-- Judging idleness touches the idle timer alone. -/
theorem judgeIdle_trimInterval (x : Channel) (now : Nat) : (x.judgeIdle now).trimInterval = x.trimInterval := by
  rw [judgeIdle_frame]

/-- Settling a channel, at the end of a hold drain too, leaves its trim interval. -/
theorem settle_trimInterval (s : State) (c : Chan) : ((s.settle c).chan c).trimInterval = (s.chan c).trimInterval := by
  rw [settle_chan_same, judgeIdle_trimInterval]
  split <;> rfl

theorem recomputeTrims_trimInterval (s : State) (c : Chan) :
    (s.recomputeTrims.chan c).trimInterval = trimIntervalOf s.mgmt.settings s.mgmt.temp.drift := by
  rw [recomputeTrims_chan, settle_trimInterval, State.chan_setChan_same, recomputeTrim_trimInterval]

/-- Settles O59: the rate is a hundredth of the model's denominator, so the rule's floor is the model's quotient and each
case of the rule is one case of the clamp; the channels' part is the recomputation's own lemma. -/
theorem trimIntervalComputed : Obligations.TrimIntervalComputed := by
  refine ⟨fun m td rate hrate => ?_, recomputeTrims_trimInterval⟩
  rw [rate_eq_denominator_div] at hrate
  subst hrate
  rw [Ne, rate_eq_zero_iff, floor_reach_div_rate]
  simp only [Nat.cast_lt, Nat.cast_le, Nat.cast_inj]
  refine ⟨trimIntervalOf_of_denominator_zero, fun hd => ?_⟩
  rw [trimIntervalOf_of_denominator_ne_zero hd]
  exact ⟨clamp_of_lt, fun hlo => ⟨clamp_of_gt hlo, clamp_of_mem hlo⟩⟩

end Sys2Proof.Proofs
end

section
/-! The validation of the channel settings (R121): what fails it, and what INIT and RESUME answer then. -/

namespace Sys2Proof.Proofs

open Sys2Proof Sys2Proof.Machine Sys2Proof.Safety Sys2Proof.Laws

/-- The first case of R121 names its settings: the fields of `nonzeroSettings`, read one by one. -/
theorem nonzeroSettings_any_zero_iff (x : Settings) : (nonzeroSettings.any fun i => x.field i == some 0) = true ↔
    x.openToAccess = 0 ∨ x.openMin = 0 ∨ x.closeTime = 0 ∨ x.openCycle = 0 ∨ x.openSpacing = 0 ∨ x.windowTime = 0 ∨
      x.burstTime = 0 ∨ x.readReturn = 0 ∨ x.writeRecovery = 0 ∨ x.writeToRead = 0 ∨ x.readToWrite = 0 ∨
      x.refreshTime = 0 ∨ x.refreshInterval = 0 ∨ x.trimShort = 0 ∨ x.trimLong = 0 ∨ x.dozeExit = 0 ∨
      x.retainExitShort = 0 ∨ x.retainExitLong = 0 ∨ x.settleTime = 0 ∨ x.rowHold = 0 ∨ x.powerupWait = 0 := by
  simp [nonzeroSettings, Settings.field]

/-- The settings are invalid when one of the four cases of R121 holds. -/
theorem settings_invalid_iff (x : Settings) : x.invalid = true ↔
    (nonzeroSettings.any fun i => x.field i == some 0) = true ∨ x.openCycle < x.openMin + x.closeTime ∨
      x.refreshInterval < 8 * (x.refreshTime + x.closeTime) ∨ x.trimLong < x.trimShort := by
  simp only [Settings.invalid, Bool.or_eq_true, decide_eq_true_eq, or_assoc]

/-- A command that validates the settings, given where R117 accepts it, fails at the validation when they are invalid. -/
theorem judgeCommand_of_invalid {x : Channel} {command : LongCommand} (hidle : x.longCmd = none)
    (hstate : acceptedIn command x.state = true) (hval : validatesSettings command = true)
    (hinv : x.settings.invalid = true) : x.judgeCommand command = .badTiming := by
  simp [Channel.judgeCommand, hidle, hstate, hval, hinv]

/-- The refusal INIT and RESUME share: the head is taken and answered BAD_TIMING, and nothing else changes. -/
theorem serveCommand_of_invalid {s : State} {q : QueuedPacket} {rest : List QueuedPacket} {c : Chan} {n : Nat}
    {v : Option Word32} {row : Instr} {command : LongCommand} {accept : QueuedPacket → Chan → State → State}
    (hhead : ManagerHead s q rest (.mgmtCommand n c.val v)) (hrow : commandRow n = row)
    (hidle : (s.chan c).longCmd = none) (hstate : acceptedIn command (s.chan c).state = true)
    (hval : validatesSettings command = true) (hinv : (s.chan c).settings.invalid = true) :
    s.serveCommand row (fun q ch _ t => t.channelCommand q ch command (accept q)) =
      answered s q rest (.mgmtResp .badTiming none) := by
  have hjudged : ((taken s rest).chan c).judgeCommand command = .badTiming :=
    judgeCommand_of_invalid hidle hstate hval hinv
  rw [serveCommand_of_manager hhead hrow, channelCommand_of_refused hjudged (by decide), answerCode_taken]

theorem exec_init (s : State) : exec .init s =
    .next (s.serveCommand .init fun q ch _ t => t.channelCommand q ch .init (acceptInit q)) := rfl

theorem exec_resume (s : State) : exec .resume s =
    .next (s.serveCommand .resume fun q ch _ t => t.channelCommand q ch .resume (acceptResume q)) := rfl

theorem init_acceptedIn_iff (st : ChanState) : acceptedIn .init st = true ↔ st = .uninit ∨ st = .held := by
  simp [acceptedIn]

theorem resume_acceptedIn_iff (st : ChanState) : acceptedIn .resume st = true ↔ st = .held := by
  simp [acceptedIn]

/-- Settles O37: the model's test is R121's list case by case; the two commands are accepted in the channel's state, so
the validation is what answers them; the defaults pass by computation. -/
theorem settingsValidation : Obligations.SettingsValidation := by
  refine ⟨fun s q rest c n v x hhead hidle hx => ⟨?_, fun hinv => ?_⟩, by decide⟩
  · rw [settings_invalid_iff, nonzeroSettings_any_zero_iff]
    simp only [or_assoc]
  · subst hx
    refine ⟨fun hn hst => ?_, fun hn hst => ?_⟩ <;> subst hn
    · have haccepted := (init_acceptedIn_iff _).2 hst
      rw [exec_init, serveCommand_of_invalid (row := .init) hhead rfl hidle haccepted rfl hinv]
    · have haccepted := (resume_acceptedIn_iff _).2 hst
      rw [exec_resume, serveCommand_of_invalid (row := .resume) hhead rfl hidle haccepted rfl hinv]

end Sys2Proof.Proofs
end

section
/-! Cold reset (R19): the state it answers, and what that leaves in the Return Unit and on the two channels (R61, R148). -/

namespace Sys2Proof.Proofs

open Sys2Proof Sys2Proof.Machine

/-- The part after COLD_RESET from `s`: each channel's DRAM contents have become undefined once more. -/
def coldResetState (s : State) : State :=
  stateAtReset (channelAtReset ((s.chan 0).dramGen + 1)) (channelAtReset ((s.chan 1).dramGen + 1)) s.pending

theorem exec_coldReset (s : State) : exec .coldReset s = .next (coldResetState s) := rfl

@[simp] theorem coldResetState_ret (s : State) : (coldResetState s).ret = returnAtReset := rfl

/-- Both channels are reset alike; from the state before, each keeps the model's count of lost DRAM contents. -/
@[simp] theorem coldResetState_chan (s : State) (c : Chan) :
    (coldResetState s).chan c = channelAtReset ((s.chan c).dramGen + 1) := by
  match c with
  | 0 => rfl
  | 1 => rfl

@[simp] theorem returnAtReset_slot (i : SlotIx) : returnAtReset.slots[i] = .free :=
  Vector.getElem_replicate i.isLt

@[simp] theorem returnAtReset_nextToSend (i : StreamIx) : returnAtReset.nextToSend[i] = 0 :=
  Vector.getElem_replicate i.isLt

/-- No read of a channel is in flight after cold reset: none waits for its data and none is on the bus (R61). -/
theorem channelAtReset_no_read (gen : Nat) : (channelAtReset gen).issued = [] ∧ (channelAtReset gen).readBurst = none :=
  ⟨rfl, rfl⟩

/-- The data-check counters of a channel are 0 after cold reset. -/
theorem channelAtReset_dataCheck_counters (gen : Nat) : (channelAtReset gen).counters.correctedWords = 0 ∧
    (channelAtReset gen).counters.poisonedWords = 0 :=
  ⟨rfl, rfl⟩

/-- Settles O2: the Return Unit is the one at reset, whose slots and streams are uniform; each channel is one at reset. -/
theorem coldResetEmptiesReturnUnit : Obligations.ColdResetEmptiesReturnUnit := by
  intro s
  refine ⟨coldResetState s, exec_coldReset s, ?_⟩
  rw [coldResetState_ret]
  refine ⟨returnAtReset_slot, rfl, returnAtReset_nextToSend, rfl, fun c => ?_⟩
  rw [coldResetState_chan]
  obtain ⟨hissued, hburst⟩ := channelAtReset_no_read ((s.chan c).dramGen + 1)
  exact ⟨hissued, hburst, channelAtReset_dataCheck_counters _⟩

end Sys2Proof.Proofs
end

section
/-! The read-only tables of one entry, IDENT (R153) and FAULT (R166), by what a MGMT_READ answers for a listed entry and
what a MGMT_WRITE answers for a field with no write rule (R152). -/

namespace Sys2Proof.Proofs

open Sys2Proof Sys2Proof.Machine Sys2Proof.Safety Sys2Proof.Laws

/-! ### Reading a listed entry -/

theorem readAnswer_of_value {o : Option Nat} {v : Word32} (h : o.map word = some v) :
    readAnswer o = .mgmtResp .ok (some v) := by
  obtain ⟨n, rfl, rfl⟩ := Option.map_eq_some_iff.1 h
  rfl

theorem readAnswer_of_no_value {o : Option Nat} (h : o.map word = none) : readAnswer o = .mgmtResp .badIndex none := by
  rw [Option.map_eq_none_iff.1 h]
  rfl

/-- A manager's MGMT_READ is answered with what the field reads once the head has been taken. -/
theorem exec_mgmtRead_of_manager {s : State} {q : QueuedPacket} {rest : List QueuedPacket} {a : MgmtAddr}
    (h : ManagerHead s q rest (.mgmtRead a)) :
    exec .mgmtRead s = .next (answered s q rest (readAnswer ((taken s rest).readField a))) :=
  congrArg Host.Outcome.next (serveManaged_of_manager h rfl _)

theorem exec_mgmtRead_of_listed {s : State} {q : QueuedPacket} {rest : List QueuedPacket} {a : MgmtAddr} {v : Word32}
    (h : ManagerHead s q rest (.mgmtRead a))
    (hv : (entryFields (taken s rest) a.table a.entry)[a.field]? = some v) :
    exec .mgmtRead s = .next (answered s q rest (.mgmtResp .ok (some v))) := by
  rw [exec_mgmtRead_of_manager h, readAnswer_of_value ((readField_eq ..).trans hv)]

theorem exec_mgmtRead_of_unlisted {s : State} {q : QueuedPacket} {rest : List QueuedPacket} {a : MgmtAddr}
    (h : ManagerHead s q rest (.mgmtRead a))
    (hlen : (entryFields (taken s rest) a.table a.entry).length ≤ a.field) :
    exec .mgmtRead s = .next (answered s q rest (.mgmtResp .badIndex none)) := by
  have hnone : (entryFields (taken s rest) a.table a.entry)[a.field]? = none := List.getElem?_eq_none hlen
  rw [exec_mgmtRead_of_manager h, readAnswer_of_no_value ((readField_eq ..).trans hnone)]

/-- Outside entry 0 or beyond its last field, a table of one entry lists nothing. -/
theorem onlyEntryFields_length_le {fields : List Word32} {n e k : Nat} (hlen : fields.length = n + 1)
    (h : e ≠ 0 ∨ n < k) : (if e = 0 then fields else []).length ≤ k := by
  split
  · next he => exact hlen.trans_le (h.resolve_left (not_not_intro he))
  · exact Nat.zero_le k

/-! ### Writing a field that has no write rule -/

/-- A field reads a value exactly when its entry lists it. -/
theorem readField_isSome_iff (s : State) (a : MgmtAddr) :
    (s.readField a).isSome = true ↔ a.field < (entryFields s a.table a.entry).length := by
  rw [← Option.isSome_map (f := word), readField_eq, isSome_getElem?]

theorem judgeOther_of_listed {s : State} {a : MgmtAddr} (htable : a.table ≠ 7)
    (hlen : a.field < (entryFields s a.table a.entry).length) (q : QueuedPacket) (v : Word32) :
    judgeOther q a v s = .readOnlyField := by
  rw [judgeOther, if_neg htable, if_pos ((readField_isSome_iff s a).2 hlen)]

/-- A manager's write of a listed field that no row writes, MAINTENANCE's own (R154) apart, is refused (R152). -/
theorem exec_mgmtWrite_of_listed {s : State} {q : QueuedPacket} {rest : List QueuedPacket} {a : MgmtAddr} {v : Word32}
    (h : ManagerHead s q rest (.mgmtWrite a v)) (hrow : writeRow a = .mgmtWrite) (htable : a.table ≠ 7)
    (hlen : a.field < (entryFields (taken s rest) a.table a.entry).length) :
    exec .mgmtWrite s = .next (answered s q rest (.mgmtResp .readOnlyField none)) :=
  congrArg Host.Outcome.next (serveWrite_of_refused h hrow (judgeOther_of_listed htable hlen q v) (by decide))

/-! ### IDENT -/

/-- The ten values of R153. -/
def identValues : List Nat := [0x2408, 1, 2, 4, 64, 48, 32, 16, 4, 32]

theorem entryFields_ident (s : State) (e : Nat) : entryFields s 0 e = if e = 0 then identValues.map word else [] := rfl

/-- Settles O31: entry 0 lists the ten values, whatever the state, and nothing beyond them; no row writes IDENT. -/
theorem identReads : Obligations.IdentReads := by
  refine fun s q rest e k => ⟨fun hread => ⟨fun v he hv => ?_, fun hout => ?_⟩, fun v hwrite he hk => ?_⟩
  · subst he
    have hword : (identValues.map word)[k]? = some (word v) := by
      rw [List.getElem?_map, identValues, hv, Option.map_some]
    exact exec_mgmtRead_of_listed hread hword
  · have hlen : (entryFields (taken s rest) 0 e).length ≤ k := by
      rw [entryFields_ident]
      exact onlyEntryFields_length_le (n := 9) rfl hout
    exact exec_mgmtRead_of_unlisted hread hlen
  · subst he
    exact exec_mgmtWrite_of_listed hwrite rfl (show 0 ≠ 7 by decide) (Nat.lt_succ_of_le hk)

/-! ### FAULT -/

theorem faultFields_length (f : Option FaultRecord) : (faultFields f).length = 5 := by
  cases f <;> rfl

theorem faultFields_none_getElem? {k : Nat} (hk : k ≤ 4) : (faultFields none)[k]? = some 0 :=
  List.getElem?_replicate_of_lt (n := 5) (Nat.lt_succ_of_le hk)

/-- The FAULT entry is not touched by the taking of the head: the record as it stands is what is read. -/
theorem entryFields_fault_taken (s : State) (rest : List QueuedPacket) (e : Nat) :
    entryFields (taken s rest) 11 e = if e = 0 then faultFields s.mgmt.fault else [] := rfl

/-- The kind numbers of the four faults (R163, R166). -/
theorem faultKind_number_mem {k : NoticeKind}
    (h : k ∈ [NoticeKind.refreshOverdue, .overrun, .tagReuse, .replayFail]) : k.number ∈ [2, 4, 5, 7] :=
  List.mem_map_of_mem (f := NoticeKind.number) h

/-- Settles O32: entry 0 lists the five fields of the record, of an empty one and of a filled one, and nothing beyond
them; no row writes FAULT; the kinds and the bound of the count are the fault record's law. -/
theorem faultTableReads : Obligations.FaultTableReads := by
  refine fun s q rest e k => ⟨fun hread => ⟨fun hempty he hk => ?_, fun f v hfault he hv => ?_, fun hout => ?_⟩,
    fun v hwrite he hk => ?_, fun f hlaw hfault => ?_⟩
  · subst he
    have hzero : (faultFields s.mgmt.fault)[k]? = some 0 := by rw [hempty, faultFields_none_getElem? hk]
    exact exec_mgmtRead_of_listed hread hzero
  · subst he
    have hfield : (faultFields s.mgmt.fault)[k]? = some v := by rw [hfault]; exact hv
    exact exec_mgmtRead_of_listed hread hfield
  · have hlen : (entryFields (taken s rest) 11 e).length ≤ k := by
      rw [entryFields_fault_taken]
      exact onlyEntryFields_length_le (faultFields_length _) hout
    exact exec_mgmtRead_of_unlisted hread hlen
  · subst he
    have hlisted : k < (entryFields (taken s rest) 11 0).length := by
      rw [entryFields_fault_taken, if_pos rfl, faultFields_length]
      exact Nat.lt_succ_of_le hk
    exact exec_mgmtWrite_of_listed hwrite rfl (show 11 ≠ 7 by decide) hlisted
  · obtain ⟨-, hcount, hkind⟩ := hlaw f hfault
    exact ⟨faultKind_number_mem hkind, hcount⟩

end Sys2Proof.Proofs
end

section
/-! The fault record at a raised fault (R164): what it holds then depends on what it held, and on nothing else. -/

namespace Sys2Proof.Proofs

open Sys2Proof Sys2Proof.Machine Sys2Proof.Safety Sys2Proof.Laws

/-- The notice of a fault leaves the fault record, whether or not it joins the notice set. -/
theorem raiseBoth_fault (s : State) (n : Notice) : (s.raiseBoth n).mgmt.fault = (s.raiseFault n).mgmt.fault :=
  raiseNotice_fault (s.raiseFault n) n

theorem raiseBoth_fault_of_empty {s : State} (n : Notice) (h : s.mgmt.fault = none) :
    (s.raiseBoth n).mgmt.fault = some ⟨n.kind, n.chan, n.detail, 1⟩ := by
  rw [raiseBoth_fault]
  simp only [State.raiseFault, State.modMgmt, h]

theorem raiseBoth_fault_of_recorded {s : State} {f : FaultRecord} (n : Notice) (h : s.mgmt.fault = some f) :
    (s.raiseBoth n).mgmt.fault = some { f with count := if f.count < 255 then f.count + 1 else f.count } := by
  rw [raiseBoth_fault]
  simp only [State.raiseFault, State.modMgmt, h]

/-- The record after a raised fault is a function of the record before it, so of no notice set and no notice_enable. -/
theorem raiseBoth_fault_congr {s t : State} (n : Notice) (h : t.mgmt.fault = s.mgmt.fault) :
    (t.raiseBoth n).mgmt.fault = (s.raiseBoth n).mgmt.fault := by
  cases hs : s.mgmt.fault with
  | none => rw [raiseBoth_fault_of_empty n hs, raiseBoth_fault_of_empty n (h.trans hs)]
  | some f => rw [raiseBoth_fault_of_recorded n hs, raiseBoth_fault_of_recorded n (h.trans hs)]

/-- Settles O58: the record by what it held before; a second fault finds the first recorded with count 1. -/
theorem faultRecordKeepsFirst : Obligations.FaultRecordKeepsFirst := by
  refine fun s n m => ⟨raiseBoth_fault_of_empty n, fun f => raiseBoth_fault_of_recorded n, fun hempty => ?_,
    fun t => raiseBoth_fault_congr n⟩
  rw [raiseBoth_fault_of_recorded m (raiseBoth_fault_of_empty n hempty)]
  rfl

end Sys2Proof.Proofs
end

section
/-! The placement of a pool entry (R28, R45, R56, R128, R131, R132): what it makes of its channel, by the channel's state,
and what it leaves. -/

namespace Sys2Proof.Proofs

-- One proof after the other, in the memory that the check allows.
set_option Elab.async false

open Sys2Proof Sys2Proof.Machine Sys2Proof.Safety Sys2Proof.Laws

/-- The channel with the entry in its pool and its idle timer stopped, before it acts on the arrival by its state. -/
def joined (x : Channel) (e : PoolEntry) : Channel :=
  { x with
    pool := x.pool ++ [e], idleTimer := .stopped
    banks := x.banks.set e.bank { x.bank e.bank with rowHold := .stopped, holdExpired := false } }

/-- What an arrival makes of its channel, by the channel's state (R28, R128, R131, R132). -/
def arrived (x : Channel) (now : Nat) : Channel :=
  match x.state with
  | .doze => x.leaveDoze now .active
  | .retainPending => { x with state := .active, longCmd := none }
  | .retained => x.beginWake now
  | _ => x

theorem joined_pool (x : Channel) (e : PoolEntry) : (joined x e).pool = x.pool ++ [e] := rfl

theorem joined_bank (x : Channel) (e : PoolEntry) (b : BankIx) : (joined x e).bank b =
    if e.bank = b then { x.bank b with rowHold := .stopped, holdExpired := false } else x.bank b :=
  Channel.bank_modBank x e.bank b fun k => { k with rowHold := .stopped, holdExpired := false }

/-- An arrival touches the state of its channel, the doze exit, the wake and the long command. -/
theorem arrived_frame (x : Channel) (now : Nat) : arrived x now = { x with
    state := (arrived x now).state, dozeExit := (arrived x now).dozeExit, lastCommand := (arrived x now).lastCommand
    seqStep := (arrived x now).seqStep, retainExitShort := (arrived x now).retainExitShort
    retainExitLong := (arrived x now).retainExitLong, longCmd := (arrived x now).longCmd } := by
  cases x
  unfold arrived
  split <;> rfl

theorem arrived_pool (x : Channel) (now : Nat) : (arrived x now).pool = x.pool := by rw [arrived_frame]

theorem arrived_bank (x : Channel) (now : Nat) (b : BankIx) : (arrived x now).bank b = x.bank b := by
  rw [arrived_frame]; rfl

theorem arrived_of_doze {x : Channel} (h : x.state = .doze) (now : Nat) : arrived x now = x.leaveDoze now .active := by
  simp only [arrived, h]

theorem arrived_of_retainPending {x : Channel} (h : x.state = .retainPending) (now : Nat) :
    arrived x now = { x with state := .active, longCmd := none } := by
  simp only [arrived, h]

theorem arrived_of_retained {x : Channel} (h : x.state = .retained) (now : Nat) : arrived x now = x.beginWake now := by
  simp only [arrived, h]

theorem arrived_of_other {x : Channel} (h : x.state ∉ [ChanState.doze, .retainPending, .retained]) (now : Nat) :
    arrived x now = x := by
  unfold arrived
  split <;> simp_all

/-- The record of a long command that ends, and its answer, in a state where it is recorded. -/
theorem endLong_ret_of_answerable {s : State} {c : Chan} {r : LongRecord} (h : (s.chan c).longCmd = some r)
    (ha : r.answerable = true) (code : MgmtCode) : (s.endLong c code).ret =
      { s.ret with queue := s.ret.queue ++ [⟨r.stream, r.tag, r.order, .mgmtResp code none, false⟩] } := by
  unfold State.endLong
  rw [h]
  dsimp only
  rw [if_pos ha]
  rfl

theorem endLong_ret_of_unanswerable {s : State} {c : Chan} (h : ∀ r, (s.chan c).longCmd = some r → r.answerable = false)
    (code : MgmtCode) : (s.endLong c code).ret = s.ret := by
  unfold State.endLong
  split
  · rfl
  · next r hr =>
    rw [if_neg (by simp [h r hr])]
    rfl

/-- The arrival acts on its channel and leaves the blocks around it, the response queue apart. -/
theorem arrivalAt_chan (s : State) (c : Chan) : (s.arrivalAt c).chan c = arrived (s.chan c) s.now := by
  cases h : (s.chan c).state <;> simp [State.arrivalAt, arrived, h]

theorem arrivalAt_frame (s : State) (c : Chan) :
    (s.arrivalAt c).now = s.now ∧ (s.arrivalAt c).link = s.link ∧ (s.arrivalAt c).intake = s.intake ∧
    (s.arrivalAt c).map = s.map ∧ (s.arrivalAt c).mgmt = s.mgmt ∧ (s.arrivalAt c).pending = s.pending ∧
    (s.arrivalAt c).ret.slots = s.ret.slots ∧ ∀ d, c ≠ d → (s.arrivalAt c).chan d = s.chan d := by
  unfold State.arrivalAt
  split
  · exact ⟨rfl, rfl, rfl, rfl, rfl, rfl, rfl, fun d h => State.chan_modChan_ne _ _ h⟩
  · refine ⟨endLong_now .., endLong_link .., endLong_intake .., endLong_map .., endLong_mgmt .., endLong_pending ..,
      endLong_slots .., fun d h => ?_⟩
    rw [endLong_chan_ne _ _ h, State.chan_modChan_ne _ _ h]
  · exact ⟨rfl, rfl, rfl, rfl, rfl, rfl, rfl, fun d h => State.chan_modChan_ne _ _ h⟩
  · exact ⟨rfl, rfl, rfl, rfl, rfl, rfl, rfl, fun d _ => rfl⟩

theorem arrivalAt_ret {s : State} {c : Chan} (h : (s.chan c).state ≠ .retainPending) :
    (s.arrivalAt c).ret = s.ret := by
  unfold State.arrivalAt
  split
  · rfl
  · next hs => exact absurd hs h
  · rfl
  · rfl

theorem arrivalAt_of_retainPending {s : State} {c : Chan} (h : (s.chan c).state = .retainPending) :
    s.arrivalAt c = (s.modChan c fun x => { x with state := .active }).endLong c .cancelled := by
  simp only [State.arrivalAt, h]

/-- The state with the entry in its channel's pool, counted in the current epoch, before the channel acts. -/
abbrev entryJoined (s : State) (c : Chan) (e : PoolEntry) : State :=
  (s.modMap fun m => { m with current := m.current + 1 }).modChan c fun x => x.join e

/-- With an entry in its pool the channel settles by stopping its idle timer. -/
theorem placeEntry_eq (s : State) (c : Chan) (e : PoolEntry) : s.placeEntry c e =
    ((entryJoined s c e).arrivalAt c).modChan c fun x => { x with idleTimer := .stopped } := by
  refine settle_of_pool ?_
  rw [arrivalAt_chan, arrived_pool, State.chan_modChan_same]
  exact List.append_ne_nil_of_right_ne_nil _ (List.cons_ne_nil _ _)

/-- What a placement makes of its channel. -/
theorem placeEntry_chan (s : State) (c : Chan) (e : PoolEntry) :
    (s.placeEntry c e).chan c = arrived (joined (s.chan c) e) s.now := by
  rw [placeEntry_eq, State.chan_modChan_same, arrivalAt_chan, State.chan_modChan_same]
  unfold arrived
  split <;> simp_all [joined, Channel.join, Channel.modBank, Channel.leaveDoze, Channel.beginWake, Channel.bank]

theorem placeEntry_chan_ne (s : State) {c d : Chan} (e : PoolEntry) (h : c ≠ d) :
    (s.placeEntry c e).chan d = s.chan d := by
  obtain ⟨-, -, -, -, -, -, -, hne⟩ := arrivalAt_frame (entryJoined s c e) c
  rw [placeEntry_eq, State.chan_modChan_ne _ _ h, hne d h, State.chan_modChan_ne _ _ h]
  rfl

/-- What a placement leaves of the other blocks. -/
theorem placeEntry_frame (s : State) (c : Chan) (e : PoolEntry) :
    (s.placeEntry c e).map = { s.map with current := s.map.current + 1 } ∧ (s.placeEntry c e).intake = s.intake ∧
    (s.placeEntry c e).link = s.link ∧ (s.placeEntry c e).mgmt = s.mgmt ∧ (s.placeEntry c e).now = s.now ∧
    (s.placeEntry c e).pending = s.pending ∧ (s.placeEntry c e).ret.slots = s.ret.slots := by
  obtain ⟨hnow, hlink, hintake, hmap, hmgmt, hpending, hslots, -⟩ := arrivalAt_frame (entryJoined s c e) c
  rw [placeEntry_eq]
  exact ⟨hmap, hintake, hlink, hmgmt, hnow, hpending, hslots⟩

theorem placeEntry_ret {s : State} {c : Chan} (e : PoolEntry) (h : (s.chan c).state ≠ .retainPending) :
    (s.placeEntry c e).ret = s.ret := by
  rw [placeEntry_eq, State.modChan_ret, arrivalAt_ret]
  · rfl
  · rw [State.chan_modChan_same]
    exact h

/-- A placement that cancels a retention: the channel is ACTIVE with the entry, and its RETAIN ends CANCELLED. -/
theorem placeEntry_ret_of_retainPending {s : State} {c : Chan} (e : PoolEntry)
    (h : (s.chan c).state = .retainPending) : (s.placeEntry c e).ret =
      (((entryJoined s c e).modChan c fun x => { x with state := .active }).endLong c .cancelled).ret := by
  rw [placeEntry_eq, State.modChan_ret, arrivalAt_of_retainPending]
  rw [State.chan_modChan_same]
  exact h

theorem entryJoined_longCmd (s : State) (c : Chan) (e : PoolEntry) :
    (((entryJoined s c e).modChan c fun x => { x with state := .active }).chan c).longCmd = (s.chan c).longCmd := by
  rw [State.chan_modChan_same, State.chan_modChan_same]
  rfl

/-- Settles O28: the channel and the rest of a placement are its own lemmas; the response is that of a cancelled RETAIN. -/
theorem placementActsByState : Obligations.PlacementActsByState := by
  intro s c d e x y hcd hx hy
  subst hx
  have hchan : (s.placeEntry c e).chan c = arrived y s.now := (placeEntry_chan s c e).trans (by rw [hy]; rfl)
  have hstate : y.state = (s.chan c).state := by rw [hy]
  have hbank : ∀ b, ((s.placeEntry c e).chan c).bank b = (joined (s.chan c) e).bank b := fun b => by
    rw [placeEntry_chan, arrived_bank]
  obtain ⟨hmap, hintake, hlink, hmgmt, hnow, hpending, -⟩ := placeEntry_frame s c e
  refine ⟨hmap, placeEntry_chan_ne s e hcd, hintake, hlink, hmgmt, hnow, hpending, ?_, ?_, fun b hb => ?_, fun h => ?_,
    fun h => ?_, fun h => ?_, fun h => ?_⟩
  · rw [placeEntry_chan, arrived_pool, joined_pool]
  · rw [hbank, joined_bank, if_pos rfl]
  · rw [hbank, joined_bank, if_neg (Ne.symm hb)]
  · refine ⟨placeEntry_ret e (by rw [h]; decide), ?_⟩
    rw [hchan, arrived_of_doze (hstate.trans h), hy]
    rfl
  · refine ⟨hchan.trans (arrived_of_retainPending (hstate.trans h) _), fun r hr ha => ?_, fun hr => ?_⟩
    · rw [placeEntry_ret_of_retainPending e h,
        endLong_ret_of_answerable ((entryJoined_longCmd s c e).trans hr) ha]
      rfl
    · rw [placeEntry_ret_of_retainPending e h,
        endLong_ret_of_unanswerable fun r hr' => hr r ((entryJoined_longCmd s c e).symm.trans hr')]
      rfl
  · refine ⟨placeEntry_ret e (by rw [h]; decide), ?_⟩
    rw [hchan, arrived_of_retained (hstate.trans h), hy]
    rfl
  · refine ⟨hchan.trans (arrived_of_other (hstate ▸ h) _), placeEntry_ret e fun hr => ?_⟩
    exact h (by rw [hr]; decide)

end Sys2Proof.Proofs
end

section
/-! What every step keeps (O5 to O14): a channel-level and a state-level relation that say that each law, taken by itself,
survives a change; one lemma per operation of the model, and one pass over the commands. -/

namespace Sys2Proof.Proofs

-- One proof after the other, in the memory that the check allows.
set_option Elab.async false

open Sys2Proof Sys2Proof.Machine Sys2Proof.Safety Sys2Proof.Laws

/-! ### The laws of one channel -/

/-- The first law on one channel, for an urgency threshold. -/
def DebtOk (threshold : Nat) (x : Channel) : Prop :=
  -8 ≤ x.debt ∧ x.debt ≤ 8 ∧ (x.urgent = true ↔ (threshold : Int) ≤ x.debt) ∧
  ∀ m, x.maint = some m → m.op = .refresh → -7 ≤ x.debt

/-- The states that are entered only at rest (the eighth law). -/
abbrev QuietStates : List ChanState := [.uninit, .starting, .doze, .held, .retained]

/-- The eighth law on one channel. -/
def RestOk (x : Channel) : Prop :=
  (x.maint ≠ none → x.allClosed = true) ∧ (x.state ∈ QuietStates → AtRest x) ∧
  (x.idleTimer.isRunning = true → AtRest x) ∧ (x.state = .waking → x.noBurst = true ∧ x.allClosed = true)

/-- The passing over of R76 in a pool. -/
def BypassOk (pool : List PoolEntry) : Prop :=
  (∀ e ∈ pool, e.bypass ≤ 8 ∧ (e.starved = true ↔ e.bypass = 8)) ∧
  pool.Pairwise fun o e => o.bank = e.bank → e.bypass ≤ o.bypass

/-- A change of a channel keeps each law of channels. A law of which the change touches nothing is kept by `id`. -/
structure ChanKept (threshold : Nat) (x y : Channel) : Prop where
  debt : 1 ≤ threshold → threshold ≤ 8 → DebtOk threshold x → DebtOk threshold y := by exact fun _ _ => id
  rest : RestOk x → RestOk y := by exact id
  window : x.window.length ≤ 4 → y.window.length ≤ 4 := by exact id
  pool : x.pool.length ≤ 32 → y.pool.length ≤ 32 := by exact id
  bypass : BypassOk x.pool → BypassOk y.pool := by exact id
  dram : dramWf x.dram = true → dramWf y.dram = true := by exact id

theorem ChanKept.refl (th : Nat) (x : Channel) : ChanKept th x x := {}

theorem ChanKept.trans {th : Nat} {x y z : Channel} (h : ChanKept th x y) (k : ChanKept th y z) : ChanKept th x z where
  debt h1 h8 := k.debt h1 h8 ∘ h.debt h1 h8
  rest := k.rest ∘ h.rest
  window := k.window ∘ h.window
  pool := k.pool ∘ h.pool
  bypass := k.bypass ∘ h.bypass
  dram := k.dram ∘ h.dram

/-! ### The laws of the state -/

/-- A change of the state keeps each law that is inductive by itself. -/
structure Keeps (s t : State) : Prop where
  debt : DebtLaw s → DebtLaw t := by exact id
  rest : RestLaw s → RestLaw t := by exact id
  window : WindowLaw s → WindowLaw t := by exact id
  pool : PoolLaw s → PoolLaw t := by exact id
  bypass : BypassLaw s → BypassLaw t := by exact id
  dram : DramLaw s → DramLaw t := by exact id
  tag : TagLaw s → TagLaw t := by exact id
  credit : CreditLaw s → CreditLaw t := by exact id
  replay : ReplayLaw s → ReplayLaw t := by exact id
  notice : NoticeLaw s → NoticeLaw t := by exact id
  fault : FaultLaw s → FaultLaw t := by exact id
  stream : StreamLaw s → StreamLaw t := by exact id

theorem Keeps.refl (s : State) : Keeps s s := {}

theorem Keeps.trans {s t u : State} (h : Keeps s t) (k : Keeps t u) : Keeps s u where
  debt := k.debt ∘ h.debt
  rest := k.rest ∘ h.rest
  window := k.window ∘ h.window
  pool := k.pool ∘ h.pool
  bypass := k.bypass ∘ h.bypass
  dram := k.dram ∘ h.dram
  tag := k.tag ∘ h.tag
  credit := k.credit ∘ h.credit
  replay := k.replay ∘ h.replay
  notice := k.notice ∘ h.notice
  fault := k.fault ∘ h.fault
  stream := k.stream ∘ h.stream

/-- The laws of channels, for a change that leaves every other block and the urgency threshold. -/
theorem keeps_of_chans {s t : State} (hthreshold : t.mgmt.settings.urgencyThreshold = s.mgmt.settings.urgencyThreshold)
    (h : ∀ c, ChanKept s.mgmt.settings.urgencyThreshold (s.chan c) (t.chan c))
    (htag : TagLaw s → TagLaw t) (hcredit : CreditLaw s → CreditLaw t) (hreplay : ReplayLaw s → ReplayLaw t)
    (hnotice : NoticeLaw s → NoticeLaw t) (hfault : FaultLaw s → FaultLaw t) (hstream : StreamLaw s → StreamLaw t) :
    Keeps s t where
  debt := by
    rintro ⟨h1, h8, hc⟩
    unfold DebtLaw
    rw [hthreshold]
    exact ⟨h1, h8, fun c => (h c).debt h1 h8 (hc c)⟩
  rest hr c := (h c).rest (hr c)
  window hw c := (h c).window (hw c)
  pool hp c := (h c).pool (hp c)
  bypass hb c := (h c).bypass (hb c)
  dram hd c := (h c).dram (hd c)
  tag := htag
  credit := hcredit
  replay := hreplay
  notice := hnotice
  fault := hfault
  stream := hstream

/-- A change of one channel that keeps its laws under the urgency threshold in force. -/
theorem keeps_modChan_threshold {s : State} {c : Chan} {f : Channel → Channel} {th : Nat}
    (hth : s.mgmt.settings.urgencyThreshold = th) (h : ChanKept th (s.chan c) (f (s.chan c))) :
    Keeps s (s.modChan c f) := by
  subst hth
  refine keeps_of_chans rfl (fun d => ?_) id id id id id id
  rw [State.chan_modChan]
  split
  · next hd => exact hd ▸ h
  · exact ChanKept.refl _ _

theorem keeps_modChan {s : State} {c : Chan} {f : Channel → Channel}
    (h : ∀ th, ChanKept th (s.chan c) (f (s.chan c))) : Keeps s (s.modChan c f) :=
  keeps_modChan_threshold rfl (h _)

/-! ### The settling of a channel -/

/-- A change that leaves all that the laws of channels speak of. -/
theorem chanKept_of_state {th : Nat} {x y : Channel} (hd : y.debt = x.debt) (hu : y.urgent = x.urgent)
    (hm : y.maint = x.maint) (hw : y.window = x.window) (hp : y.pool = x.pool) (hr : y.dram = x.dram)
    (hrest : RestOk x → RestOk y) : ChanKept th x y where
  debt _ _ := by simp only [DebtOk, hd, hu, hm]; exact id
  rest := hrest
  window := by rw [hw]; exact id
  pool := by rw [hp]; exact id
  bypass := by rw [hp]; exact id
  dram := by rw [hr]; exact id

/-- Banks changed within their states leave closed what was closed. -/
theorem allClosed_congr {x y : Channel} (h : ∀ b, (y.bank b).state = (x.bank b).state) : y.allClosed = x.allClosed := by
  simp only [Channel.allClosed, h]

theorem atRest_of_idle {x : Channel} (h : x.idle = true) : AtRest x := by
  simp only [Channel.idle, Bool.and_eq_true, List.isEmpty_iff] at h
  exact ⟨h.1.1.1.1.1.1.1, h.1.1.1.1.1.1.2, h.1.1.1.1.1.2⟩

/-- The idle timer runs after the judgment only in an idle channel. -/
theorem judgeIdle_running {x : Channel} {now : Nat} (h : (x.judgeIdle now).idleTimer.isRunning = true) :
    AtRest x := by
  unfold Channel.judgeIdle at h
  split at h
  · next hidle =>
    simp only [Bool.and_eq_true] at hidle
    exact atRest_of_idle hidle.1.2
  · simp [Timer.isRunning] at h

theorem chanKept_judgeIdle (th : Nat) (x : Channel) (now : Nat) : ChanKept th x (x.judgeIdle now) := by
  have hrest : RestOk x → RestOk (x.judgeIdle now) := by
    rintro ⟨hm, hs, -, hw⟩
    have ht := judgeIdle_running (x := x) (now := now)
    rw [judgeIdle_frame] at ht ⊢
    exact ⟨hm, hs, ht, hw⟩
  rw [judgeIdle_frame] at hrest ⊢
  exact { rest := hrest }

/-- A state may be entered: at rest, where the eighth law asks for it. -/
theorem restOk_of_state {x : Channel} {st : ChanState} (hq : st ∈ QuietStates → RestOk x → AtRest x)
    (hw : st = .waking → RestOk x → x.noBurst = true ∧ x.allClosed = true) (h : RestOk x) :
    RestOk { x with state := st } :=
  ⟨h.1, fun hst => hq hst h, h.2.2.1, fun hst => hw hst h⟩

theorem keeps_endLong (s : State) (c : Chan) (code : MgmtCode) : Keeps s (s.endLong c code) := by
  unfold State.endLong
  split
  · exact Keeps.refl s
  · have hrecord : Keeps s (s.modChan c fun x => { x with longCmd := none }) := keeps_modChan fun th => {}
    dsimp only
    split
    · exact hrecord.trans {}
    · exact hrecord

theorem drained_atRest {x : Channel} (h : x.drained = true) : AtRest x := ((drained_iff x).1 h).2.1

theorem keeps_settle (s : State) (c : Chan) : Keeps s (s.settle c) := by
  unfold State.settle
  refine Keeps.trans (t := if (s.chan c).drained then (s.modChan c fun x => { x with state := .held }).endLong c .ok
    else s) ?_ (keeps_modChan fun th => chanKept_judgeIdle th _ _)
  split
  · next hd =>
    refine (keeps_modChan fun th => ?_).trans (keeps_endLong _ c .ok)
    exact { rest := restOk_of_state (fun _ _ => drained_atRest hd) (fun h => nomatch h) }
  · exact Keeps.refl s

theorem keeps_settleAll (s : State) : Keeps s s.settleAll := (keeps_settle s 0).trans (keeps_settle _ 1)

/-- An event of a channel that ends with the settling. -/
theorem keeps_issueOn {s : State} {c : Chan} {f : Channel → Channel}
    (h : ∀ th, ChanKept th (s.chan c) (f (s.chan c))) : Keeps s (s.issueOn c f) :=
  (keeps_modChan h).trans (keeps_settle _ c)

/-! ### Notices and faults -/

/-- The form of the notice set, the wait count apart. -/
def NoticeForm (l : List Notice) : Prop :=
  (∀ n ∈ l, n.chan.isSome = perChannel n.kind) ∧ (l.map Notice.rank).Pairwise (· < ·)

/-- Two notices of the form of their kinds with the same place in the order of sending are the same pair. -/
theorem samePair_of_rank {n m : Notice} (hn : n.chan.isSome = perChannel n.kind)
    (hm : m.chan.isSome = perChannel m.kind) (h : n.rank = m.rank) : n.samePair m = true := by
  obtain ⟨k, c, d⟩ := n
  obtain ⟨k', c', d'⟩ := m
  simp only [Notice.rank] at h
  have hk : k = k' ∧ c = c' := by
    cases k <;> cases k' <;> rcases c with _ | ⟨_ | _ | c, hc⟩ <;> rcases c' with _ | ⟨_ | _ | c', hc'⟩ <;>
      simp_all [perChannel, NoticeKind.number] <;> omega
  simp [Notice.samePair, hk.1, hk.2]

theorem noticeForm_insert {n : Notice} (hn : n.chan.isSome = perChannel n.kind) : ∀ {l : List Notice}, NoticeForm l →
    l.any n.samePair = false → NoticeForm (insertNotice n l) := by
  intro l hl hnew
  refine ⟨fun m hm => ?_, ?_⟩
  · rcases (mem_insertNotice n m l).1 hm with rfl | hm
    · exact hn
    · exact hl.1 m hm
  · induction l with
    | nil => simp [insertNotice]
    | cons m t ih =>
      obtain ⟨hform, hsorted⟩ := hl
      rw [List.map_cons, List.pairwise_cons] at hsorted
      rw [List.any_cons, Bool.or_eq_false_iff] at hnew
      rw [insertNotice]
      split
      · next hlt =>
        rw [List.map_cons, List.pairwise_cons, List.map_cons, List.pairwise_cons]
        refine ⟨fun r hr => ?_, hsorted⟩
        rcases List.mem_cons.1 hr with rfl | hr
        · exact hlt
        · exact hlt.trans (hsorted.1 r hr)
      · next hge =>
        have hne : n.rank ≠ m.rank := fun he =>
          Bool.false_ne_true (hnew.1.symm.trans (samePair_of_rank hn (hform m List.mem_cons_self) he))
        have ht := ih ⟨fun k hk => hform k (List.mem_cons_of_mem _ hk), hsorted.2⟩ hnew.2
        rw [List.map_cons, List.pairwise_cons]
        refine ⟨fun r hr => ?_, ht⟩
        obtain ⟨k, hk, rfl⟩ := List.mem_map.1 hr
        rcases (mem_insertNotice n k t).1 hk with rfl | hk
        · omega
        · exact hsorted.1 _ (List.mem_map_of_mem hk)

theorem insertNotice_ne_nil (n : Notice) (l : List Notice) : insertNotice n l ≠ [] :=
  List.ne_nil_of_mem ((mem_insertNotice n n l).2 (Or.inl rfl))

theorem noticeForm_raise {s : State} {n : Notice} (hn : n.chan.isSome = perChannel n.kind)
    (h : NoticeForm s.mgmt.notices) : NoticeForm (s.raiseNotice n).mgmt.notices := by
  unfold State.raiseNotice
  split
  · next hnew =>
    simp only [Bool.and_eq_true, Bool.not_eq_true'] at hnew
    split <;> exact noticeForm_insert hn h hnew.2
  · exact h

theorem noticeLaw_raise {s : State} {n : Notice} (hn : n.chan.isSome = perChannel n.kind) (h : NoticeLaw s) :
    NoticeLaw (s.raiseNotice n) := by
  obtain ⟨hform, hsorted, hwait, hempty⟩ := h
  obtain ⟨hform', hsorted'⟩ := noticeForm_raise hn ⟨hform, hsorted⟩
  refine ⟨hform', hsorted', ?_⟩
  unfold State.raiseNotice
  split
  · split
    · exact ⟨Nat.zero_le 8, fun _ => rfl⟩
    · exact ⟨hwait, fun he => absurd he (insertNotice_ne_nil _ _)⟩
  · exact ⟨hwait, hempty⟩

theorem keeps_raiseNotice {s : State} {n : Notice} (hn : n.chan.isSome = perChannel n.kind) :
    Keeps s (s.raiseNotice n) := by
  have hnotice := noticeLaw_raise (s := s) hn
  unfold State.raiseNotice at hnotice ⊢
  split
  · next h =>
    rw [if_pos h] at hnotice
    split
    · next he => exact { notice := by rw [if_pos he] at hnotice; exact hnotice }
    · next he => exact { notice := by rw [if_neg he] at hnotice; exact hnotice }
  · exact Keeps.refl s

theorem keeps_raiseFault {s : State} {n : Notice}
    (hn : n.kind ∈ [NoticeKind.refreshOverdue, .overrun, .tagReuse, .replayFail]) : Keeps s (s.raiseFault n) where
  fault := by
    intro h f hf
    simp only [State.raiseFault, State.modMgmt] at hf
    cases hs : s.mgmt.fault with
    | none =>
      rw [hs] at hf
      cases hf
      exact ⟨le_rfl, Nat.le_add_right 1 254, hn⟩
    | some g =>
      rw [hs] at hf
      cases hf
      obtain ⟨h1, h255, hk⟩ := h g hs
      refine ⟨?_, ?_, hk⟩ <;> dsimp only <;> split <;> omega

theorem keeps_raiseBoth {s : State} {n : Notice} (hk : n.kind ∈ [NoticeKind.refreshOverdue, .overrun, .tagReuse, .replayFail])
    (hn : n.chan.isSome = perChannel n.kind) : Keeps s (s.raiseBoth n) :=
  (keeps_raiseFault hk).trans (keeps_raiseNotice hn)

theorem keeps_raiseDrained (s : State) : Keeps s s.raiseDrained := keeps_raiseNotice rfl

theorem keeps_retire (s : State) (e : Epoch) : Keeps s (s.retire e) := by
  unfold State.retire
  split
  · exact {}
  · dsimp only
    have hcount : Keeps s (s.modMap fun m => { m with previous := m.previous - 1 }) := {}
    split
    · exact hcount.trans (keeps_raiseDrained _)
    · exact hcount

end Sys2Proof.Proofs
end

section
/-! What every step keeps: the Link Port, the head of the ingress queue, and the resets. -/

namespace Sys2Proof.Proofs

-- One proof after the other, in the memory that the check allows.
set_option Elab.async false

open Sys2Proof Sys2Proof.Machine Sys2Proof.Safety Sys2Proof.Laws

/-! ### The replay buffer -/

/-- The replay buffer's numbers run up to next_seq − 1. -/
def Consecutive (replay : List SentPacket) (next : SeqNo) : Prop :=
  ∀ (i : Nat) (p : SentPacket), replay[i]? = some p → p.seq = next - BitVec.ofNat 8 (replay.length - i)

/-- The replay buffer's form, of a Link Port. -/
def ReplayOk (l : Link) : Prop :=
  l.replay.length ≤ 32 ∧ Consecutive l.replay l.nextSeq ∧
  (∀ n, l.replayPoint = some n → ∃ p ∈ l.replay, p.seq = n) ∧
  (l.replayTimer.isRunning = true ↔ l.replay ≠ []) ∧ l.attempts ≤ 4 ∧ l.respCredits ≤ 255

theorem Consecutive.drop {replay : List SentPacket} {next : SeqNo} (h : Consecutive replay next) (k : Nat) :
    Consecutive (replay.drop k) next := by
  intro i p hp
  rw [List.getElem?_drop] at hp
  rw [h _ p hp, List.length_drop, Nat.sub_sub]

theorem Consecutive.append {replay : List SentPacket} {next : SeqNo} (h : Consecutive replay next) (b : OutPacket) :
    Consecutive (replay ++ [⟨next, b⟩]) (next + 1) := by
  intro i p hp
  rw [List.length_append, List.length_singleton]
  rcases Nat.lt_trichotomy i replay.length with hi | hi | hi
  · rw [List.getElem?_append_left hi] at hp
    rw [h i p hp, show replay.length + 1 - i = replay.length - i + 1 by omega, BitVec.ofNat_add,
      show BitVec.ofNat 8 1 = 1 from rfl]
    ring
  · subst hi
    rw [List.getElem?_concat_length, Option.some.injEq] at hp
    subst hp
    simp
  · rw [List.getElem?_eq_none (by rw [List.length_append, List.length_singleton]; omega)] at hp
    cases hp

/-- A packet stands as far from the oldest one as its number is. -/
theorem Consecutive.seq_of_offset {h : SentPacket} {t : List SentPacket} {next : SeqNo}
    (hc : Consecutive (h :: t) next) {i : Nat} (hi : i < (h :: t).length) :
    ∃ p, (h :: t)[i]? = some p ∧ p.seq = h.seq + BitVec.ofNat 8 i := by
  obtain ⟨p, hp⟩ := List.getElem?_eq_some_iff.2 ⟨hi, rfl⟩ |> fun hp => (⟨_, hp⟩ : ∃ p, (h :: t)[i]? = some p)
  refine ⟨p, hp, ?_⟩
  rw [hc i p hp, hc 0 h rfl, Nat.sub_zero]
  obtain ⟨j, hj⟩ := Nat.exists_eq_add_of_le hi.le
  rw [hj, Nat.add_sub_cancel_left, BitVec.ofNat_add]
  ring

theorem offset_of_cons {l : Link} {p : SentPacket} {ps : List SentPacket} (h : l.replay = p :: ps) (n : SeqNo) :
    l.offset n = (n - p.seq).toNat := by
  simp only [Link.offset, h]

/-- The packet that a number names, when the number lies within the buffer. -/
theorem seq_at_offset {l : Link} (hc : Consecutive l.replay l.nextSeq) {n : SeqNo}
    (h : l.offset n < l.replay.length) : ∃ p, l.replay[l.offset n]? = some p ∧ p.seq = n := by
  cases hr : l.replay with
  | nil => rw [hr] at h; exact absurd h (Nat.not_lt_zero _)
  | cons q qs =>
    rw [offset_of_cons hr] at h ⊢
    rw [hr] at hc h
    obtain ⟨p, hp, hseq⟩ := hc.seq_of_offset h
    refine ⟨p, hp, ?_⟩
    rw [hseq, BitVec.ofNat_toNat, BitVec.setWidth_eq]
    ring

/-- What an acknowledgment of `k` packets, at least one, makes of the Link Port (R174). -/
theorem acknowledge_eq (l : Link) (now : Nat) {k : Nat} (h : k ≠ 0) : l.acknowledge now k = { l with
    replay := l.replay.drop k, attempts := 0
    replayTimer := if (l.replay.drop k).isEmpty then .stopped else Timer.start now Config.replayTime
    replayPoint := match l.replayPoint with
      | none => none
      | some p => if (l.replay.drop k).any (·.seq == p) then some p else (l.replay.drop k).head?.map (·.seq) } :=
  if_neg h

theorem acknowledge_frame (l : Link) (now k : Nat) : l.acknowledge now k = { l with
    replay := (l.acknowledge now k).replay, attempts := (l.acknowledge now k).attempts
    replayTimer := (l.acknowledge now k).replayTimer, replayPoint := (l.acknowledge now k).replayPoint } := by
  by_cases h : k = 0
  · simp [Link.acknowledge, h]
  · rw [acknowledge_eq l now h]

theorem acknowledge_replay (l : Link) (now k : Nat) : (l.acknowledge now k).replay = l.replay.drop k := by
  by_cases h : k = 0
  · simp [Link.acknowledge, h]
  · rw [acknowledge_eq l now h]

theorem replayOk_acknowledge {l : Link} (now k : Nat) (h : ReplayOk l) : ReplayOk (l.acknowledge now k) := by
  by_cases hk : k = 0
  · simpa [Link.acknowledge, hk] using h
  obtain ⟨hlen, hseq, -, -, -, hcredits⟩ := h
  rw [acknowledge_eq l now hk]
  refine ⟨?_, hseq.drop k, fun n hn => ?_, ?_, Nat.zero_le 4, hcredits⟩
  · dsimp only
    rw [List.length_drop]
    omega
  · dsimp only at hn ⊢
    split at hn
    · cases hn
    · next p _ =>
      split at hn
      · next hany =>
        cases hn
        simpa using hany
      · cases hd : l.replay.drop k with
        | nil => rw [hd] at hn; cases hn
        | cons q qs =>
          rw [hd] at hn
          cases hn
          exact ⟨q, List.mem_cons_self, rfl⟩
  · dsimp only
    split
    · next he => simp [Timer.isRunning, List.isEmpty_iff.1 he]
    · next he => simpa [Timer.isRunning, Timer.start] using he

/-- A call for a replay from a packet of the buffer, below four attempts. -/
theorem replayOk_replayFrom {l : Link} (now : Nat) (n : SeqNo) (c : LinkCounters) (h : ReplayOk l)
    (hn : ∃ p ∈ l.replay, p.seq = n) (ha : l.attempts < 4) : ReplayOk { l with
      replayPoint := some n, attempts := l.attempts + 1, replayTimer := Timer.start now Config.replayTime, counters := c } := by
  obtain ⟨hlen, hseq, -, -, -, hcredits⟩ := h
  refine ⟨hlen, hseq, fun m hm => ?_, ?_, ha, hcredits⟩
  · cases hm
    exact hn
  · obtain ⟨p, hp, -⟩ := hn
    simp [Timer.isRunning, Timer.start, List.ne_nil_of_mem hp]

theorem replayOk_sendNew {l : Link} (now : Nat) (b : OutPacket) (h : ReplayOk l) (hroom : l.replay.length < 32) :
    ReplayOk (l.sendNew now b) := by
  obtain ⟨-, hseq, hpoint, htimer, hattempts, hcredits⟩ := h
  refine ⟨?_, hseq.append b, fun n hn => ?_, ?_, hattempts, ?_⟩
  · simpa [Link.sendNew] using hroom
  · obtain ⟨p, hp, he⟩ := hpoint n hn
    exact ⟨p, List.mem_append_left _ hp, he⟩
  · simp only [Link.sendNew]
    split
    · simp [Timer.isRunning, Timer.start]
    · next he => simpa [htimer] using he
  · simp only [Link.sendNew]
    omega

theorem replayOk_nextReplayPoint {l : Link} (p : SeqNo) (h : ReplayOk l) :
    ∀ n, l.nextReplayPoint p = some n → ∃ q ∈ l.replay, q.seq = n := by
  obtain ⟨-, hseq, -⟩ := h
  intro n hn
  unfold Link.nextReplayPoint at hn
  split at hn
  · next hlt =>
    cases hn
    cases hr : l.replay with
    | nil => rw [hr] at hlt; exact absurd hlt (Nat.not_lt_zero _)
    | cons q qs =>
      rw [offset_of_cons hr, hr] at hlt
      rw [hr] at hseq
      obtain ⟨k, hk, hks⟩ := hseq.seq_of_offset hlt
      refine ⟨k, List.mem_of_getElem? hk, ?_⟩
      rw [hks, BitVec.ofNat_add, BitVec.ofNat_toNat, BitVec.setWidth_eq, show BitVec.ofNat 8 1 = 1 from rfl]
      show q.seq + (p - q.seq + 1) = p + 1
      ring
  · cases hn

/-! ### The Link Port -/

theorem keeps_modLink {s : State} {f : Link → Link} (hc : CreditLaw s → CreditLaw (s.modLink f))
    (hr : ReplayOk s.link → ReplayOk (f s.link)) : Keeps s (s.modLink f) where
  credit := hc
  replay := hr

theorem keeps_acknowledge (s : State) (now k : Nat) : Keeps s (s.modLink fun l => l.acknowledge now k) := by
  refine keeps_modLink (fun h => ?_) (replayOk_acknowledge now k)
  show CreditLaw { s with link := s.link.acknowledge now k }
  rw [acknowledge_frame]
  exact h

theorem link_accept_eq (l : Link) : l.accept = accepted l l.expected := by
  unfold Link.accept Link.useCredit accepted
  split
  · next h => simp [show l.granted ≠ 0 by omega]
  · next h =>
    have h0 : l.granted = 0 := by omega
    split
    · simp [h0]
    · next ho =>
      have ho0 : l.owed = 0 := by omega
      simp [h0, ho0]

theorem raiseNotice_modLink (s : State) (n : Notice) (f : Link → Link) :
    (s.raiseNotice n).modLink f = (s.modLink f).raiseNotice n := by
  unfold State.raiseNotice
  rw [State.modLink_mgmt]
  by_cases h : (noticeEnabled s.mgmt.settings.noticeEnable n.kind && !s.mgmt.notices.any n.samePair) = true
  · rw [if_pos h, if_pos h]
    by_cases he : s.mgmt.notices.isEmpty = true
    · rw [if_pos he, if_pos he]; rfl
    · rw [if_neg he, if_neg he]; rfl
  · rw [if_neg h, if_neg h]

theorem raiseBoth_modLink (s : State) (n : Notice) (f : Link → Link) :
    (s.raiseBoth n).modLink f = (s.modLink f).raiseBoth n := raiseNotice_modLink (s.raiseFault n) n f

/-- The streams' roles are all that the stream law speaks of. -/
theorem streamLaw_congr {s t : State} (h : ∀ j, (t.stream j).noticeTarget = (s.stream j).noticeTarget ∧
    (t.stream j).manager = (s.stream j).manager) : StreamLaw s → StreamLaw t := by
  simp only [StreamLaw, fun j => (h j).1, fun j => (h j).2]
  exact id

theorem keeps_modStream {s : State} {i : StreamIx} {f : StreamEntry → StreamEntry}
    (h : (f (s.stream i)).noticeTarget = (s.stream i).noticeTarget ∧ (f (s.stream i)).manager = (s.stream i).manager) :
    Keeps s (s.modStream i f) where
  stream := by
    refine streamLaw_congr fun j => ?_
    rw [State.stream_modStream]
    split
    · next hj => exact hj ▸ h
    · exact ⟨rfl, rfl⟩

/-- The acceptance of a packet that the full ingress queue refuses: no credit was left to use. -/
theorem keeps_overrun {s : State} (p : Packet) (hup : s.link.state = .up) (hfull : 64 ≤ s.intake.queue.length) :
    Keeps s ((s.modLink Link.accept).raiseBoth ⟨.overrun, none, tagDetail p.stream p.tag⟩) := by
  refine (keeps_modLink (fun h => ?_) fun h => ?_).trans (keeps_raiseBoth (by simp) rfl)
  · obtain ⟨hcount, -, hhello⟩ := h
    have hsum := hcount hup
    simp only [State.modLink, link_accept_eq, CreditLaw, accepted]
    refine ⟨fun _ => ?_, fun h => absurd hup h, hhello⟩
    split <;> omega
  · rw [link_accept_eq]
    exact h

/-- A packet refused for its tag uses a credit and gives one back. -/
theorem keeps_tagReuse {s : State} (p : Packet) (hup : s.link.state = .up) (hroom : s.intake.queue.length < 64) :
    Keeps s (((s.modLink Link.accept).raiseBoth ⟨.tagReuse, none, tagDetail p.stream p.tag⟩).modLink
      fun l => { l with owed := l.owed + 1 }) := by
  rw [raiseBoth_modLink]
  refine Keeps.trans (t := (s.modLink Link.accept).modLink fun l => { l with owed := l.owed + 1 })
    { credit := fun h => ?_, replay := fun h => ?_ } (keeps_raiseBoth (by simp) rfl)
  · obtain ⟨hcount, -, hhello⟩ := h
    have hsum := hcount hup
    simp only [State.modLink, link_accept_eq, CreditLaw, accepted]
    refine ⟨fun _ => ?_, fun h => absurd hup h, hhello⟩
    split <;> omega
  · simp only [State.modLink, link_accept_eq]
    exact h

/-- A packet taken uses a credit for its slot, and its tag was not outstanding. -/
theorem keeps_takePacket {s : State} {p : Packet} (hup : s.link.state = .up) (hroom : s.intake.queue.length < 64)
    (hnew : (p.stream, p.tag) ∉ s.intake.tags) : Keeps s ((s.modLink Link.accept).takePacket p) := by
  unfold State.takePacket
  refine Keeps.trans (t := (s.modLink Link.accept).modIntake fun x => { x with
    queue := x.queue ++ [⟨p, ((s.modLink Link.accept).stream p.stream).nextOrder⟩]
    tags := x.tags ++ [(p.stream, p.tag)] })
    { tag := fun h => ?_, credit := fun h => ?_, replay := fun h => ?_ } (keeps_modStream ⟨rfl, rfl⟩)
  · exact List.nodup_append.2 ⟨h, List.nodup_singleton _, fun a ha b hb hab =>
      hnew (by rw [← List.mem_singleton.1 hb, ← hab]; exact ha)⟩
  · obtain ⟨hcount, -, hhello⟩ := h
    have hsum := hcount hup
    simp only [State.modLink, State.modIntake, link_accept_eq, CreditLaw, accepted, List.length_append,
      List.length_singleton]
    refine ⟨fun _ => ?_, fun h => absurd hup h, hhello⟩
    split <;> omega
  · simp only [State.modLink, State.modIntake, link_accept_eq]
    exact h

theorem keeps_arrive {s : State} (p : Packet) (hup : s.link.state = .up) :
    Keeps s ((s.modLink Link.accept).arrive p) := by
  unfold State.arrive
  split
  · next h => exact keeps_overrun p hup h
  · next h =>
    have hroom : s.intake.queue.length < 64 := Nat.lt_of_not_le h
    split
    · exact keeps_tagReuse p hup hroom
    · next hnew => exact keeps_takePacket hup hroom (by simpa using hnew)

/-- A change of what the Link Port owes the host in NAKs, ACKs and counts. -/
theorem keeps_linkFrame {s : State} {f : Link → Link} (h : f s.link = { s.link with
    nakOutstanding := (f s.link).nakOutstanding, ackPending := (f s.link).ackPending
    nakPending := (f s.link).nakPending, counters := (f s.link).counters, lastTx := (f s.link).lastTx }) :
    Keeps s (s.modLink f) := by
  refine keeps_modLink (fun hl => ?_) fun hl => ?_
  · show CreditLaw { s with link := f s.link }
    rw [h]
    exact hl
  · rw [h]
    exact hl

theorem wantNak_frame (l : Link) : l.wantNak = { l with
    nakOutstanding := l.wantNak.nakOutstanding, nakPending := l.wantNak.nakPending } := by
  unfold Link.wantNak
  split <;> rfl

theorem keeps_wantNak (s : State) : Keeps s (s.modLink Link.wantNak) :=
  keeps_linkFrame (by rw [wantNak_frame])

theorem keeps_takeSequenced {s : State} (n : SeqNo) (p : Packet) (hup : s.link.state = .up) :
    Keeps s (s.takeSequenced n p) := by
  unfold State.takeSequenced
  split
  · exact keeps_arrive p hup
  · split
    · exact keeps_linkFrame rfl
    · exact (keeps_linkFrame (f := fun l => { l with counters := { l.counters with
        outOfSequence := bump l.counters.outOfSequence } }) rfl).trans (keeps_wantNak _)

/-! ### The resets -/

theorem bankEmptied_state (k : Bank) (now d : Nat) : (bankEmptied k now d).state = k.state := by
  unfold bankEmptied
  split <;> simp_all

/-- An emptied pool, row_hold on its banks and a mark on the write burst keep each law of channels. -/
theorem chanKept_emptied {th : Nat} {x y : Channel} {f : WriteBurst → WriteBurst}
    (hbank : ∀ b, (y.bank b).state = (x.bank b).state)
    (hy : y = { x with pool := [], banks := y.banks, writeBurst := x.writeBurst.map f }) : ChanKept th x y := by
  have hclosed : y.allClosed = x.allClosed := allClosed_congr hbank
  have hburst : y.noBurst = x.noBurst := by rw [hy]; simp [Channel.noBurst]
  have hpool : y.pool = [] := by rw [hy]
  have hrest : AtRest x → AtRest y := fun h => ⟨hpool, hburst.trans h.2.1, hclosed.trans h.2.2⟩
  have hst : y.state = x.state := by rw [hy]
  have hm : y.maint = x.maint := by rw [hy]
  have hi : y.idleTimer = x.idleTimer := by rw [hy]
  refine { debt := ?_, rest := ?_, window := ?_, pool := ?_, bypass := ?_, dram := ?_ }
  · rw [hy]; exact fun _ _ => id
  · rintro ⟨h1, h2, h3, h4⟩
    refine ⟨fun h => ?_, fun h => hrest (h2 (hst ▸ h)), fun h => hrest (h3 (hi ▸ h)), fun h => ?_⟩
    · rw [hclosed]; exact h1 (hm ▸ h)
    · rw [hclosed, hburst]; exact h4 (hst ▸ h)
  · rw [hy]; exact id
  · rw [hpool]; exact fun _ => Nat.zero_le 32
  · rw [hpool]; exact fun _ => ⟨fun _ he => (nomatch he), List.Pairwise.nil⟩
  · rw [hy]; exact id

/-- The notices after retirements, in their form. -/
theorem noticeForm_retired {s t : State} (h : Retired s t) (hs : NoticeForm s.mgmt.notices) :
    NoticeForm t.mgmt.notices := by
  obtain ⟨-, -, -, hsame, hdrained⟩ := h
  by_cases hp : s.map.previous = 0 ∨ t.map.previous ≠ 0
  · rw [hsame hp]; exact hs
  · simp only [not_or, ne_eq, not_not] at hp
    rw [hdrained hp.1 hp.2]
    exact noticeForm_raise rfl hs

/-- The discards of a reset, from a state whose flush lists have been emptied. -/
theorem keeps_discards {s s1 : State} (hflush : ∀ i, (s1.stream i).flushes = [])
    (hthreshold : s1.mgmt.settings.urgencyThreshold = s.mgmt.settings.urgencyThreshold)
    (hchan : ∀ c, ChanKept s.mgmt.settings.urgencyThreshold (s.chan c) (s1.chan c))
    (htag : TagLaw s → TagLaw s1) (hcredit : CreditLaw s → CreditLaw s1) (hreplay : ReplayLaw s → ReplayLaw s1)
    (hform : NoticeForm s.mgmt.notices → NoticeForm s1.mgmt.notices) (hfault : FaultLaw s → FaultLaw s1)
    (hstream : StreamLaw s → StreamLaw s1) : Keeps s ((s1.discardPool 0).discardPool 1).emptyReturn := by
  obtain ⟨hret, -, hlink, hintake, -, -, hwait, -, -, hc⟩ := discards_frame hflush
  have hmgmt := hret.2.2.1
  refine keeps_of_chans ?_ (fun c => (hchan c).trans (chanKept_emptied (fun b => ?_) (hc c).2)) (fun h => ?_)
    (fun h => ?_) (fun h => ?_) (fun h => ?_) (fun h => ?_) (fun h => ?_)
  · rw [hmgmt]; exact hthreshold
  · rw [(hc c).1 b, bankEmptied_state]
  · unfold TagLaw; rw [hintake]; exact htag h
  · unfold CreditLaw; rw [hintake, hlink]; exact hcredit h
  · unfold ReplayLaw; rw [hlink]; exact hreplay h
  · obtain ⟨hkind, hsorted⟩ := noticeForm_retired hret (hform ⟨h.1, h.2.1⟩)
    exact ⟨hkind, hsorted, hwait.trans_le (Nat.zero_le 8), fun _ => hwait⟩
  · unfold FaultLaw; rw [hmgmt]; exact hfault h
  · unfold StreamLaw State.stream; rw [hintake]; exact hstream h

theorem emptyIntake_stream (s : State) (tags : List (StreamIx × TagIx)) (i : StreamIx) :
    (s.emptyIntake tags).stream i = { s.stream i with nextOrder := 0, flushes := [] } :=
  mapTable_get _ _ _ i.isLt

theorem chan_modChan_both (s : State) (f : Channel → Channel) (c : Chan) :
    ((s.modChan 0 f).modChan 1 f).chan c = f (s.chan c) := by
  match c with
  | 0 => rw [State.chan_modChan_ne _ _ (by decide), State.chan_modChan_same]
  | 1 => rw [State.chan_modChan_same, State.chan_modChan_ne _ _ (by decide)]

/-- A link reset before its discards: the Link Port and the Intake emptied, the long commands unanswerable. -/
abbrev linkCleared (s : State) : State :=
  (((s.modLink Link.reset).emptyIntake []).modChan 0 Channel.unanswerable).modChan 1 Channel.unanswerable

theorem linkCleared_stream (s : State) (j : StreamIx) :
    (linkCleared s).stream j = { s.stream j with nextOrder := 0, flushes := [] } :=
  emptyIntake_stream (s.modLink Link.reset) [] j

theorem keeps_linkReset (s : State) : Keeps s s.linkReset := by
  refine (keeps_discards (s := s) (s1 := linkCleared s) (fun i => ?_) rfl (fun c => ?_) (fun _ => ?_) (fun _ => ?_) (fun _ => ?_)
    id id (streamLaw_congr fun j => ?_)).trans (keeps_settleAll _)
  · rw [linkCleared_stream]
  · rw [chan_modChan_both]
    exact {}
  · exact List.nodup_nil
  · exact ⟨fun h => (nomatch h), fun _ => ⟨rfl, rfl, rfl⟩, fun _ => rfl, fun _ => rfl⟩
  · refine ⟨Nat.zero_le 32, fun i p h => ?_, fun _ h => (nomatch h), ⟨fun h => (nomatch h), fun h => absurd rfl h⟩,
      Nat.zero_le 4, Nat.zero_le 255⟩
    cases i <;> cases h
  · rw [linkCleared_stream]
    exact ⟨rfl, rfl⟩

theorem clearCounters_both (s : State) :
    s.clearCounters 3 = (s.modChan 0 Channel.clearCounters).modChan 1 Channel.clearCounters := rfl

theorem resetIntake_stream (s : State) (q : QueuedPacket) (j : StreamIx) :
    (s.clearRecords.resetIntake q).stream j = { s.stream j with nextOrder := 0, flushes := [] } :=
  emptyIntake_stream s.clearRecords [(q.packet.stream, q.packet.tag)] j

theorem resetIntake_chan (s : State) (q : QueuedPacket) (c : Chan) :
    (s.clearRecords.resetIntake q).chan c = (s.chan c).clearCounters :=
  chan_modChan_both (s.modMgmt fun m => { m with notices := [], fault := none }) Channel.clearCounters c

/-- The freed slots of the queue come back as credits owed. -/
theorem creditLaw_resetIntake {s : State} (q : QueuedPacket) (h : CreditLaw s) :
    CreditLaw (s.clearRecords.resetIntake q) := by
  obtain ⟨hcount, hdown, hhello⟩ := h
  refine ⟨fun hup => ?_, fun hup => ?_, hhello⟩
  · have hsum := hcount hup
    show 0 + s.link.granted + (s.link.owed + s.intake.queue.length) = 64
    omega
  · obtain ⟨hqueue, hgranted, howed⟩ := hdown hup
    refine ⟨rfl, hgranted, ?_⟩
    show s.link.owed + s.intake.queue.length = 0
    rw [howed, hqueue]
    rfl

theorem keeps_resetDiscards (s : State) (q : QueuedPacket) :
    Keeps s ((((s.clearRecords.resetIntake q).discardPool 0).discardPool 1).emptyReturn) := by
  refine keeps_discards (fun i => ?_) rfl (fun c => ?_) (fun _ => ?_) (creditLaw_resetIntake q) id (fun _ => ?_)
    (fun _ f hf => ?_) (streamLaw_congr fun j => ?_)
  · rw [resetIntake_stream]
  · rw [resetIntake_chan]
    exact {}
  · exact List.nodup_singleton _
  · exact ⟨fun _ hn => (nomatch hn), List.Pairwise.nil⟩
  · cases hf
  · rw [resetIntake_stream]
    exact ⟨rfl, rfl⟩

theorem keeps_modRet {s : State} {f : ReturnUnit → ReturnUnit} (h : ∀ r, (f r).noticeWait = r.noticeWait) :
    Keeps s (s.modRet f) where
  notice := by
    unfold NoticeLaw
    rw [State.modRet_ret, h]
    exact id

theorem keeps_handOver (s : State) (r : Response) : Keeps s (s.handOver r) := keeps_modRet fun _ => rfl

theorem keeps_functionReset (s : State) (q : QueuedPacket) : Keeps s (s.functionReset q) := by
  have hreturn := (keeps_resetDiscards s q).trans
    (keeps_modRet (f := fun r => { r with nextToSend := r.nextToSend.set q.packet.stream q.order }) fun _ => rfl)
  have hanswer := hreturn.trans
    (keeps_handOver _ ⟨q.packet.stream, q.packet.tag, q.order, .mgmtResp .ok none, true⟩)
  exact hanswer.trans (keeps_settleAll _)

/-! ### Calls for a replay, and what arrives at the Link Port -/

/-- A call for a replay from a packet that the buffer holds, made as part of a change that so far keeps the laws. -/
theorem keeps_callReplay {s t : State} {point : Option SeqNo} (hk : Keeps s t) (h : ReplayOk s.link →
    ∃ n, point = some n ∧ ∃ p ∈ t.link.replay, p.seq = n) : Keeps s (t.callReplay point) := by
  unfold State.callReplay
  split
  · next ha =>
    refine { hk with replay := fun hr => ?_ }
    obtain ⟨n, rfl, hn⟩ := h hr
    exact replayOk_replayFrom t.now n _ (hk.replay hr) hn ha
  · exact hk.trans ((keeps_raiseBoth (by simp) rfl).trans (keeps_linkReset _))

theorem keeps_takeNak (s : State) (n : SeqNo) : Keeps s (s.takeNak n) := by
  unfold State.takeNak
  split
  · next hlt =>
    refine keeps_callReplay (keeps_acknowledge s s.now _) fun hr => ⟨n, rfl, ?_⟩
    obtain ⟨p, hp, hseq⟩ := seq_at_offset hr.2.1 hlt
    refine ⟨p, ?_, hseq⟩
    show p ∈ (s.link.acknowledge s.now (s.link.offset n)).replay
    rw [acknowledge_replay]
    exact List.mem_of_getElem? (i := 0) (by rw [List.getElem?_drop]; exact hp)
  · split
    · exact keeps_acknowledge s s.now _
    · exact Keeps.refl s

end Sys2Proof.Proofs
end

section
/-! What every step keeps: the packets at the head of the ingress queue. -/

namespace Sys2Proof.Proofs

-- One proof after the other, in the memory that the check allows.
set_option Elab.async false

open Sys2Proof Sys2Proof.Machine Sys2Proof.Safety Sys2Proof.Laws

/-! ### Taking and serving the head -/

theorem keeps_takeHead {s : State} {q : QueuedPacket} {rest : List QueuedPacket} (h : s.intake.queue = q :: rest) :
    Keeps s s.takeHead where
  credit := by
    rintro ⟨hcount, hdown, hhello⟩
    refine ⟨fun hup => ?_, fun hup => absurd (hdown hup).1 (by rw [h]; exact List.cons_ne_nil _ _), hhello⟩
    have hsum := hcount hup
    rw [h, List.length_cons] at hsum
    show s.intake.queue.tail.length + s.link.granted + (s.link.owed + 1) = 64
    rw [h, List.tail_cons]
    omega

theorem keeps_answer (s : State) (q : QueuedPacket) (b : RespBody) : Keeps s (s.answer q b) := keeps_handOver s _

theorem keeps_serveHead {s : State} {row : Instr} {f : QueuedPacket → Request → State}
    (h : ∀ q rest, HeadIs s q rest (requestOf q.packet) → Keeps s (f q (requestOf q.packet))) :
    Keeps s (s.serveHead row f) := by
  rcases serveHead_cases s row f with he | ⟨q, rest, hhead, -, he⟩
  · rw [he]; exact Keeps.refl s
  · rw [he]; exact h q rest hhead

/-- Taking the head and then acting on it. -/
theorem keeps_taken {s t : State} {q : QueuedPacket} {rest : List QueuedPacket} {r : Request} (h : HeadIs s q rest r)
    (ht : Keeps s.takeHead t) : Keeps s t := (keeps_takeHead h.1).trans ht

theorem keeps_serveManaged {s : State} {row : Instr} {act : QueuedPacket → Request → State → State}
    (h : ∀ q r t, Keeps t (act q r t)) : Keeps s (s.serveManaged row act) := by
  refine keeps_serveHead fun q rest hhead => ?_
  split
  · exact keeps_taken hhead (h q _ _)
  · exact keeps_taken hhead (keeps_answer _ _ _)

theorem keeps_serveCommand {s : State} {row : Instr} {act : QueuedPacket → Nat → Option Word32 → State → State}
    (h : ∀ q ch arg t, Keeps t (act q ch arg t)) : Keeps s (s.serveCommand row act) := by
  refine keeps_serveManaged fun q r t => ?_
  split
  · exact h q _ _ t
  · exact Keeps.refl t

/-- A write of the row keeps the laws when its carrying out does, given that it was judged OK. -/
theorem keeps_serveWrite {s : State} {row : Instr}
    {judge : QueuedPacket → MgmtAddr → Word32 → State → MgmtCode} {carry : QueuedPacket → MgmtAddr → Word32 → State → State}
    (h : ∀ q a v t, writeRow a = row → judge q a v t = .ok → Keeps t (carry q a v t)) :
    Keeps s (s.serveWrite row judge carry) := by
  unfold State.serveWrite State.serveManaged
  rcases serveHead_cases s row _ with he | ⟨q, rest, hhead, hrow, he⟩
  · rw [he]; exact Keeps.refl s
  · rw [he]
    split
    · refine keeps_taken hhead ?_
      dsimp only
      split
      · next a v hr =>
        rw [hr] at hrow
        refine Keeps.trans ?_ (keeps_answer _ q _)
        split
        · next hj => exact h q a v _ hrow hj
        · exact Keeps.refl _
      · exact Keeps.refl _
    · exact keeps_taken hhead (keeps_answer _ _ _)

/-! ### READ, WRITE and FLUSH -/

/-- A state that a request is accepted in is quiet only as a doze or a retention, which the arrival ends. -/
theorem arrived_state_not_quiet {x : Channel} (h : stateCheck x.state = none) (now : Nat) :
    (arrived x now).state ∉ QuietStates := by
  unfold arrived
  split
  · simp [Channel.leaveDoze]
  · simp
  · simp [Channel.beginWake]
  · cases hs : x.state <;> simp_all [stateCheck]

theorem arrived_state_waking {x : Channel} {now : Nat} (h : (arrived x now).state = .waking) :
    x.state = .waking ∨ x.state = .retained := by
  unfold arrived at h
  split at h
  · simp [Channel.leaveDoze] at h
  · simp at h
  · next hs => exact Or.inr hs
  · exact Or.inl h

theorem bypassOk_append {pool : List PoolEntry} {e : PoolEntry} (hb : e.bypass = 0) (hs : e.starved = false)
    (h : BypassOk pool) : BypassOk (pool ++ [e]) := by
  refine ⟨fun k hk => ?_, List.pairwise_append.2 ⟨h.2, List.pairwise_singleton _ _, fun o _ k hk _ => ?_⟩⟩
  · rcases List.mem_append.1 hk with hk | hk
    · exact h.1 k hk
    · rw [List.mem_singleton.1 hk]
      simp [hb, hs]
  · rw [List.mem_singleton.1 hk, hb]
    exact Nat.zero_le _

theorem chanKept_placed {th : Nat} {x : Channel} {e : PoolEntry} (now : Nat) (hstate : stateCheck x.state = none)
    (hroom : x.pool.length < 32) (hb : e.bypass = 0) (hs : e.starved = false) :
    ChanKept th x (arrived (joined x e) now) := by
  have hpool : (arrived (joined x e) now).pool = x.pool ++ [e] := arrived_pool _ now
  have hquiet := arrived_state_not_quiet (x := joined x e) hstate now
  have hwaking := @arrived_state_waking (joined x e) now
  have hclosed : (arrived (joined x e) now).allClosed = x.allClosed := allClosed_congr fun b => by
    rw [arrived_bank, joined_bank]; split <;> rfl
  have hburst : (arrived (joined x e) now).noBurst = x.noBurst := by rw [arrived_frame]; rfl
  have hmaint : (arrived (joined x e) now).maint = x.maint := by rw [arrived_frame]; rfl
  have hidle : (arrived (joined x e) now).idleTimer = .stopped := by rw [arrived_frame]; rfl
  refine { debt := ?_, rest := ?_, window := ?_, pool := ?_, bypass := ?_, dram := ?_ }
  · rw [arrived_frame]; exact fun _ _ => id
  · rintro ⟨h1, h2, -, h4⟩
    refine ⟨fun h => ?_, fun h => absurd h hquiet, fun h => ?_, fun h => ?_⟩
    · rw [hclosed]; exact h1 (hmaint ▸ h)
    · rw [hidle] at h; cases h
    · rw [hclosed, hburst]
      rcases hwaking h with hw | hr
      · exact h4 hw
      · exact (h2 (by rw [show x.state = .retained from hr]; decide)).2
  · rw [arrived_frame]; exact id
  · rw [hpool, List.length_append]; exact fun _ => hroom
  · rw [hpool]; exact bypassOk_append hb hs
  · rw [arrived_frame]; exact id

/-- The placement of a fresh entry in a channel that accepts requests and has room. -/
theorem keeps_placeEntry {s : State} {c : Chan} {e : PoolEntry} (hstate : stateCheck (s.chan c).state = none)
    (hroom : (s.chan c).pool.length < 32) (hb : e.bypass = 0) (hs : e.starved = false) :
    Keeps s (s.placeEntry c e) := by
  obtain ⟨-, hintake, hlink, hmgmt, -, -, -⟩ := placeEntry_frame s c e
  have hwait : (s.placeEntry c e).ret.noticeWait = s.ret.noticeWait := by
    by_cases hp : (s.chan c).state = .retainPending
    · rw [placeEntry_ret_of_retainPending e hp]
      exact (endLong_frame _ c .cancelled).2.2.2.2.2.2.2.2.1
    · rw [placeEntry_ret e hp]
  refine keeps_of_chans (by rw [hmgmt]) (fun d => ?_) ?_ ?_ ?_ ?_ ?_ ?_
  · by_cases hd : c = d
    · subst hd
      rw [placeEntry_chan]
      exact chanKept_placed s.now hstate hroom hb hs
    · rw [placeEntry_chan_ne s e hd]
      exact ChanKept.refl _ _
  · unfold TagLaw; rw [hintake]; exact id
  · unfold CreditLaw; rw [hintake, hlink]; exact id
  · unfold ReplayLaw; rw [hlink]; exact id
  · unfold NoticeLaw; rw [hmgmt, hwait]; exact id
  · unfold FaultLaw; rw [hmgmt]; exact id
  · unfold StreamLaw State.stream; rw [hintake]; exact id

theorem check_passes {s : State} {i : StreamIx} {a : HostAddr} {m w : Bool} {loc : Location}
    (h : s.check i a m w = .passes loc) : stateCheck (s.chan loc.chan).state = none := by
  unfold State.check at h
  repeat' split at h
  all_goals first | cases h | (dsimp only at h; split at h <;> cases h; assumption)

theorem keeps_serveRead {s : State} {q : QueuedPacket} {rest : List QueuedPacket} {r : Request} (h : HeadIs s q rest r)
    (a : HostAddr) : Keeps s (s.serveRead q a) := by
  unfold State.serveRead
  split
  · exact keeps_taken h (keeps_answer _ _ _)
  · next loc hc =>
    split
    · split
      · next hroom =>
        have hslot : Keeps s.takeHead (s.takeHead.setSlot ‹_› (.reserved (readRecord q s.map.epoch loc))) := {}
        refine keeps_taken h (hslot.trans (keeps_placeEntry (check_passes hc) ?_ rfl rfl))
        exact of_decide_eq_true hroom
      · exact Keeps.refl s
    · exact Keeps.refl s

theorem keeps_serveWriteRequest {s : State} {q : QueuedPacket} {rest : List QueuedPacket} {r : Request}
    (h : HeadIs s q rest r) (a : HostAddr) (en : BitVec 8) (d : Line) : Keeps s (s.serveWriteRequest q a en d) := by
  unfold State.serveWriteRequest
  split
  · exact keeps_taken h (keeps_answer _ _ _)
  · next loc hc =>
    split
    · next hroom => exact keeps_taken h (keeps_placeEntry (check_passes hc) (of_decide_eq_true hroom) rfl rfl)
    · exact Keeps.refl s

theorem keeps_serveFlush {s : State} {q : QueuedPacket} {rest : List QueuedPacket} {r : Request} (h : HeadIs s q rest r) :
    Keeps s (s.serveFlush q) := by
  unfold State.serveFlush
  dsimp only
  split
  · exact keeps_taken h (keeps_answer _ _ _)
  · split
    · exact keeps_taken h (keeps_modStream ⟨rfl, rfl⟩)
    · exact keeps_taken h (keeps_answer _ _ _)

/-! ### Management writes -/

theorem keeps_carryOrderMode (q : QueuedPacket) (a : MgmtAddr) (v : Word32) (t : State) :
    Keeps t (carryOrderMode q a v t) := by
  have hmode : Keeps t (t.modStream (streamOf a.entry) fun e => { e with orderMode := orderModeOf v }) :=
    keeps_modStream ⟨rfl, rfl⟩
  unfold carryOrderMode
  dsimp only
  split
  · exact hmode.trans (keeps_modRet fun _ => rfl)
  · exact hmode

theorem judgeManager_ok_iff (q : QueuedPacket) (a : MgmtAddr) (v : Word32) (s : State) : judgeManager q a v s = .ok ↔
    streamWriteForm a v = .ok ∧ ¬(v = 0 ∧ (s.stream (streamOf a.entry)).manager = true ∧
      streamIxs.any (fun j => j != streamOf a.entry && (s.stream j).manager) = false) := by
  unfold judgeManager
  dsimp only
  split
  · next h => exact ⟨fun he => absurd he h, fun he => absurd he.1 h⟩
  · next h =>
    have hform : streamWriteForm a v = .ok := not_not.1 h
    split
    · next hlast => exact ⟨fun he => (nomatch he), fun he => absurd hlast he.2⟩
    · next hlast => exact ⟨fun _ => ⟨hform, hlast⟩, fun _ => rfl⟩

theorem carryManager_stream (q : QueuedPacket) (a : MgmtAddr) (v : Word32) (t : State) (j : StreamIx) :
    (carryManager q a v t).stream j =
      if streamOf a.entry = j then { t.stream j with manager := v != 0 } else t.stream j :=
  State.stream_modStream t (streamOf a.entry) j fun e => { e with manager := v != 0 }

/-- A manager that is taken away leaves another, so some manager remains. -/
theorem carryManager_leaves_manager {q : QueuedPacket} {a : MgmtAddr} {v : Word32} {t : State}
    (h : judgeManager q a v t = .ok) (hm : ∃ m, (t.stream m).manager = true) :
    ∃ j, ((carryManager q a v t).stream j).manager = true := by
  obtain ⟨-, hlast⟩ := (judgeManager_ok_iff q a v t).1 h
  by_cases hv : v = 0
  · have hother : ∃ j, j ≠ streamOf a.entry ∧ (t.stream j).manager = true := by
      by_contra hnone
      obtain ⟨m, hm⟩ := hm
      have hms : m = streamOf a.entry := by
        by_contra hne
        exact hnone ⟨m, hne, hm⟩
      refine hlast ⟨hv, hms ▸ hm, List.any_eq_false.2 fun j _ hj => ?_⟩
      simp only [Bool.and_eq_true, bne_iff_ne] at hj
      exact hnone ⟨j, hj⟩
    obtain ⟨j, hj, hmj⟩ := hother
    exact ⟨j, by rw [carryManager_stream, if_neg (Ne.symm hj)]; exact hmj⟩
  · exact ⟨streamOf a.entry, by rw [carryManager_stream, if_pos rfl]; simpa using hv⟩

theorem keeps_carryManager {q : QueuedPacket} {a : MgmtAddr} {v : Word32} {t : State}
    (h : judgeManager q a v t = .ok) : Keeps t (carryManager q a v t) where
  stream := by
    rintro ⟨⟨i, htarget⟩, hm⟩
    refine ⟨⟨i, fun j => ?_⟩, carryManager_leaves_manager h hm⟩
    rw [carryManager_stream]
    split <;> exact htarget j

/-- After the notice target moved, each stream is the target exactly when it is the one named. -/
theorem retarget_streams (x : Intake) (i j : StreamIx) :
    (x.retarget i).streams[j] = { x.streams[j] with noticeTarget := j == i } := by
  match j with
  | 0 => simp [Intake.retarget, streamIxs, retargetEntry]
  | 1 => simp [Intake.retarget, streamIxs, retargetEntry]
  | 2 => simp [Intake.retarget, streamIxs, retargetEntry]
  | 3 => simp [Intake.retarget, streamIxs, retargetEntry]

theorem keeps_carryNoticeTarget (q : QueuedPacket) (a : MgmtAddr) (v : Word32) (t : State) :
    Keeps t (carryNoticeTarget q a v t) := by
  unfold carryNoticeTarget
  split
  · exact Keeps.refl t
  · refine { stream := ?_ }
    have hstream : ∀ j, (t.modIntake fun x => x.retarget (streamOf a.entry)).stream j =
        { t.stream j with noticeTarget := j == streamOf a.entry } := retarget_streams t.intake (streamOf a.entry)
    rintro ⟨-, m, hm⟩
    exact ⟨⟨streamOf a.entry, fun j => by rw [hstream]; exact beq_iff_eq⟩, m, by rw [hstream]; exact hm⟩

/-- A write of another maintenance setting leaves the urgency threshold. -/
theorem withField_urgencyThreshold (m : MaintSettings) {i : Nat} (h : i ≠ 0) (v : Nat) :
    (m.withField i v).urgencyThreshold = m.urgencyThreshold := by
  unfold MaintSettings.withField
  split <;> first | rfl | exact absurd rfl h

theorem keeps_storeMaintenance {t : State} {i : Nat} (h : i ≠ 0) (v : Nat) : Keeps t (t.storeMaintenance i v) where
  debt := by
    unfold DebtLaw
    show _ → 1 ≤ (t.mgmt.settings.withField i v).urgencyThreshold ∧ _
    rw [show (t.storeMaintenance i v).mgmt.settings = t.mgmt.settings.withField i v from rfl,
      withField_urgencyThreshold _ h]
    exact id

/-- A maintenance write that is judged OK names a setting and a value of its range. -/
theorem judgeMaintenance_ok_form {q : QueuedPacket} {a : MgmtAddr} {v : Word32} {s : State}
    (h : judgeMaintenance q a v s = .ok) : a.entry = 0 ∧ a.field ≤ 9 ∧ maintInRange a.field v.toNat = true := by
  unfold judgeMaintenance at h
  split at h
  · cases h
  · next hindex =>
    simp only [not_or, ne_eq, not_not, not_lt] at hindex
    split at h
    · cases h
    · next hrange => exact ⟨hindex.1, hindex.2, by simpa using hrange⟩

/-- A change of the urgency threshold with both channels judged by the new one. -/
theorem keeps_carryUrgencyThreshold {q : QueuedPacket} {a : MgmtAddr} {v : Word32} {t : State}
    (hrow : writeRow a = .urgencyThresholdWrite) (h : judgeMaintenance q a v t = .ok) :
    Keeps t (carryUrgencyThreshold q a v t) := by
  have hfield : a.field = 0 := by
    unfold writeRow at hrow
    repeat' split at hrow
    all_goals first | assumption | cases hrow
  have hrange : 1 ≤ v.toNat ∧ v.toNat ≤ 8 := by
    have hvalue := (judgeMaintenance_ok_form h).2.2
    rw [hfield] at hvalue
    simpa [maintInRange] using hvalue
  have hchan : ∀ c, (carryUrgencyThreshold q a v t).chan c = (t.chan c).judgeUrgent v.toNat :=
    chan_modChan_both (t.storeMaintenance a.field v.toNat) _
  have hsettings : (carryUrgencyThreshold q a v t).mgmt.settings.urgencyThreshold = v.toNat := by
    show (t.mgmt.settings.withField a.field v.toNat).urgencyThreshold = v.toNat
    rw [hfield]
    rfl
  refine { debt := ?_, rest := ?_, window := ?_, pool := ?_, bypass := ?_, dram := ?_ }
  · rintro ⟨-, -, hc⟩
    unfold DebtLaw
    rw [hsettings]
    refine ⟨hrange.1, hrange.2, fun c => ?_⟩
    rw [hchan]
    obtain ⟨hlo, hhi, -, hmaint⟩ := hc c
    exact ⟨hlo, hhi, decide_eq_true_iff, hmaint⟩
  all_goals
    intro h c
    rw [hchan]
    exact h c

/-- A state that no rule asks rest of may be entered from any other. -/
theorem chanKept_state {th : Nat} {x : Channel} {st : ChanState} (hq : st ∉ QuietStates) (hw : st ≠ .waking) :
    ChanKept th x { x with state := st } where
  rest := restOk_of_state (fun h => absurd h hq) (fun h => absurd h hw)

theorem chanKept_leaveDoze {th : Nat} {x : Channel} (now : Nat) {st : ChanState} (hq : st ∉ QuietStates)
    (hw : st ≠ .waking) : ChanKept th x (x.leaveDoze now st) :=
  (chanKept_state hq hw).trans {}

/-- A short trim that falls due ends a doze. -/
theorem chanKept_shortTrimFallsDue (th : Nat) (x : Channel) (now grace : Nat) :
    ChanKept th x (x.shortTrimFallsDue now grace) := by
  have hdue : ChanKept th x { x with
      shortTrimDue := true, trimTimer := .stopped, graceTimer := Timer.start now (grace * Config.unitsPerUs) } := {}
  unfold Channel.shortTrimFallsDue
  dsimp only
  split
  · exact hdue.trans (chanKept_leaveDoze now (by decide) (by decide))
  · exact hdue

theorem chanKept_recomputeTrim (th : Nat) (x : Channel) (now : Nat) (m : MaintSettings) (drift : Nat) :
    ChanKept th x (x.recomputeTrim now m drift) := by
  unfold Channel.recomputeTrim
  dsimp only
  have hstore : ChanKept th x { x with trimInterval := trimIntervalOf m drift } := {}
  split
  · exact ChanKept.refl _ _
  · split
    · split
      · exact hstore.trans (chanKept_shortTrimFallsDue th _ now m.trimGraceUs)
      · exact {}
    · exact hstore

theorem keeps_recomputeTrims (s : State) : Keeps s s.recomputeTrims :=
  ((keeps_modChan fun th => chanKept_recomputeTrim th _ _ _ _).trans
    (keeps_modChan fun th => chanKept_recomputeTrim th _ _ _ _)).trans (keeps_settleAll _)

theorem keeps_carryTrimSetting {q : QueuedPacket} {a : MgmtAddr} {v : Word32} {t : State}
    (hrow : writeRow a = .trimSettingsWrite) : Keeps t (carryTrimSetting q a v t) := by
  have hfield : a.field ≠ 0 := by
    unfold writeRow at hrow
    repeat' split at hrow
    all_goals first | assumption | cases hrow
  exact (keeps_storeMaintenance hfield _).trans (keeps_recomputeTrims _)

theorem keeps_carryNoticeEnable {q : QueuedPacket} {a : MgmtAddr} {v : Word32} {t : State}
    (hrow : writeRow a = .noticeEnableWrite) : Keeps t (carryNoticeEnable q a v t) := by
  have hfield : a.field ≠ 0 := by
    unfold writeRow at hrow
    repeat' split at hrow
    all_goals first | assumption | cases hrow
  refine (keeps_storeMaintenance hfield v.toNat).trans { notice := ?_ }
  rintro ⟨hkind, hsorted, hwait, -⟩
  refine ⟨fun n hn => hkind n (List.mem_of_mem_filter hn), hsorted.sublist (List.filter_sublist.map _), ?_, fun he => ?_⟩
  · unfold carryNoticeEnable
    rw [State.modRet_ret]
    dsimp only
    split
    · exact Nat.zero_le 8
    · exact hwait
  · exact if_pos (List.isEmpty_iff.2 he)

theorem chanKept_takeBand (th : Nat) (x : Channel) (now : Nat) (old new : Band) :
    ChanKept th x (x.takeBand now old new) := by
  rw [takeBand_frame]
  exact {}

theorem keeps_setBand (s : State) (b : Band) : Keeps s (s.setBand b) := by
  unfold State.setBand
  split
  · exact Keeps.refl s
  · have hband : Keeps s (s.modMgmt fun m => { m with temp := { m.temp with band := b } }) := {}
    exact (hband.trans (keeps_modChan fun th => chanKept_takeBand th _ _ _ _)).trans
      (keeps_modChan fun th => chanKept_takeBand th _ _ _ _)

theorem keeps_takeReport (s : State) (v : Int) : Keeps s (s.takeReport v) := by
  unfold State.takeReport State.reportBand
  dsimp only
  have htemp : Keeps s (s.modMgmt fun m => { m with temp := m.temp.report v s.millis s.now m.settings.staleTimeoutMs }) :=
    {}
  refine Keeps.trans ?_ (keeps_recomputeTrims _)
  split
  · exact (htemp.trans (keeps_setBand _ _)).trans (keeps_raiseNotice rfl)
  · exact htemp.trans (keeps_setBand _ _)

/-- Of the other fields only maintenance settings are ever written, and not the urgency threshold. -/
theorem keeps_carryOther {q : QueuedPacket} {a : MgmtAddr} {v : Word32} {t : State} (hrow : writeRow a = .mgmtWrite)
    (h : judgeOther q a v t = .ok) : Keeps t (carryOther q a v t) := by
  refine keeps_storeMaintenance (fun hfield => ?_) _
  have htable : a.table = 7 := by
    unfold judgeOther at h
    repeat' split at h
    all_goals first | assumption | cases h
  simp [writeRow, htable, hfield] at hrow

/-! ### Channel commands and device commands -/

theorem keeps_beginLong (s : State) (c : Chan) (q : QueuedPacket) (k : LongCommand) : Keeps s (s.beginLong c q k) :=
  keeps_modChan fun th => {}

theorem keeps_channelCommand {t : State} {q : QueuedPacket} {ch : Nat} {k : LongCommand} {accept : Chan → State → State}
    (h : ∀ c, (t.chan c).judgeCommand k = .ok → Keeps t (accept c t)) : Keeps t (t.channelCommand q ch k accept) := by
  unfold State.channelCommand
  split
  · exact keeps_answer _ _ _
  · split
    · next hj => exact h _ hj
    · exact keeps_answer _ _ _

theorem judgeCommand_ok {x : Channel} {k : LongCommand} (h : x.judgeCommand k = .ok) :
    x.longCmd = none ∧ acceptedIn k x.state = true ∧ ¬(validatesSettings k = true ∧ x.settings.invalid = true) := by
  unfold Channel.judgeCommand at h
  split at h
  · cases h
  · next hl =>
    split at h
    · cases h
    · next ha =>
      split at h
      · cases h
      · next hv => exact ⟨by simpa using hl, by simpa using ha, hv⟩

theorem chanKept_enterStarting {th : Nat} {x : Channel} (now : Nat) (h : x.state = .uninit ∨ x.state = .held) :
    ChanKept th x (x.enterStarting now) where
  debt h1 _ := by
    refine fun _ => ⟨(by decide : (-8 : Int) ≤ 0), (by decide : (0 : Int) ≤ 8), ?_, fun _ _ _ => (by decide : (-7 : Int) ≤ 0)⟩
    show false = true ↔ (th : Int) ≤ 0
    simp only [Bool.false_eq_true, false_iff, not_le]
    omega
  rest hr := by
    have hrest : AtRest x := hr.2.1 (by rcases h with h | h <;> rw [h] <;> decide)
    exact ⟨hr.1, fun _ => hrest, hr.2.2.1, fun h => nomatch h⟩
  dram _ := rfl

theorem keeps_acceptInit (q : QueuedPacket) {c : Chan} {t : State} (h : (t.chan c).judgeCommand .init = .ok) :
    Keeps t (acceptInit q c t) := by
  refine ((keeps_beginLong t c q .init).trans (keeps_modChan fun th => ?_)).trans (keeps_settle _ c)
  obtain ⟨-, hs, -⟩ := judgeCommand_ok h
  have hstate := (init_acceptedIn_iff _).1 hs
  refine chanKept_enterStarting _ ?_
  rw [State.beginLong, State.chan_modChan_same]
  exact hstate

theorem chanKept_beginDrain {th : Nat} {x : Channel} (now : Nat) {st : ChanState} (hq : st ∉ QuietStates)
    (hw : st ≠ .waking) : ChanKept th x (x.beginDrain now st) := by
  unfold Channel.beginDrain
  split
  · exact chanKept_leaveDoze now hq hw
  · exact chanKept_state hq hw

theorem keeps_acceptHold (q : QueuedPacket) (c : Chan) (t : State) : Keeps t (acceptHold q c t) := by
  refine ((keeps_beginLong t c q .hold).trans (keeps_modChan fun th => ?_)).trans (keeps_settle _ c)
  exact chanKept_beginDrain _ (by decide) (by decide)

theorem keeps_acceptRetain (q : QueuedPacket) (c : Chan) (t : State) : Keeps t (acceptRetain q c t) := by
  refine ((keeps_beginLong t c q .retain).trans (keeps_modChan fun th => ?_)).trans (keeps_settle _ c)
  exact chanKept_beginDrain _ (by decide) (by decide)

theorem chanKept_active (th : Nat) (x : Channel) : ChanKept th x { x with state := .active } :=
  chanKept_state (by decide) (by decide)

theorem keeps_acceptResume (q : QueuedPacket) (c : Chan) (t : State) : Keeps t (acceptResume q c t) := by
  unfold acceptResume
  split
  · exact (keeps_beginLong t c q .resume).trans (keeps_settle _ c)
  · exact ((keeps_modChan fun th => chanKept_active th _).trans (keeps_answer _ _ _)).trans (keeps_settle _ c)

theorem chanKept_beginWake {th : Nat} {x : Channel} (now : Nat) (h : x.state = .retained) :
    ChanKept th x (x.beginWake now) where
  rest := restOk_of_state (x := x) (st := .waking) (fun hs => absurd hs (by decide))
    fun _ hr => (hr.2.1 (by rw [h]; decide)).2

theorem keeps_acceptWake (q : QueuedPacket) (c : Chan) (t : State) : Keeps t (acceptWake q c t) := by
  unfold acceptWake
  split
  · next h =>
    refine ((keeps_beginLong t c q .wake).trans (keeps_modChan fun th => chanKept_beginWake _ ?_)).trans (keeps_settle _ c)
    rw [State.beginLong, State.chan_modChan_same]
    exact h
  · exact keeps_answer _ _ _

theorem chanKept_requestLongTrim (th : Nat) (x : Channel) (now : Nat) : ChanKept th x (x.requestLongTrim now) := by
  have hrequest : ChanKept th x { x with longTrimRequest := true } := {}
  unfold Channel.requestLongTrim
  dsimp only
  split
  · exact hrequest.trans (chanKept_leaveDoze now (by decide) (by decide))
  · exact hrequest

theorem keeps_acceptTrimLong (q : QueuedPacket) (c : Chan) (t : State) : Keeps t (acceptTrimLong q c t) :=
  ((keeps_beginLong t c q .trimLong).trans (keeps_modChan fun th => chanKept_requestLongTrim th _ _)).trans
    (keeps_settle _ c)

theorem keeps_commitMap (t : State) : Keeps t t.commitMap := by
  have hmap : Keeps t (t.modMap MapUnit.commit) := {}
  unfold State.commitMap
  dsimp only
  split
  · exact hmap.trans (keeps_raiseDrained _)
  · exact hmap

theorem keeps_clearCounters (t : State) (n : Nat) : Keeps t (t.clearCounters n) := by
  have hclear : ∀ (u : State) (c : Chan), Keeps u (u.modChan c Channel.clearCounters) :=
    fun u c => keeps_modChan fun th => {}
  unfold State.clearCounters
  dsimp only
  split <;> split
  · exact (hclear _ 0).trans (hclear _ 1)
  · exact hclear _ 1
  · exact hclear _ 0
  · exact Keeps.refl t

end Sys2Proof.Proofs
end

section
/-! What every step keeps: the selector's commands, the expiries and completions, and the pass over all commands. -/

namespace Sys2Proof.Proofs

-- One proof after the other, in the memory that the check allows.
set_option Elab.async false

open Sys2Proof Sys2Proof.Machine Sys2Proof.Safety Sys2Proof.Laws

/-! ### Events of a channel that is not at rest -/

/-- An event of a channel that is not at rest and keeps its state and idle timer: only the operation in progress and the
rule of WAKING remain to be seen. -/
theorem restOk_of_not_atRest {x y : Channel} (hx : ¬AtRest x) (hs : y.state = x.state) (hi : y.idleTimer = x.idleTimer)
    (hm : RestOk x → y.maint ≠ none → y.allClosed = true)
    (hw : RestOk x → x.state = .waking → y.noBurst = true ∧ y.allClosed = true) (h : RestOk x) : RestOk y :=
  ⟨hm h, fun hq => absurd (h.2.1 (hs ▸ hq)) hx, fun hr => absurd (h.2.2.1 (hi ▸ hr)) hx, fun hq => hw h (hs ▸ hq)⟩

theorem not_atRest_of_entry {x : Channel} {i : Nat} {e : PoolEntry} (h : x.pool[i]? = some e) : ¬AtRest x :=
  fun hr => absurd (hr.1 ▸ h) (by simp)

theorem not_atRest_of_mem {x : Channel} {e : PoolEntry} (h : e ∈ x.pool) : ¬AtRest x :=
  fun hr => absurd (hr.1 ▸ h) List.not_mem_nil

theorem closed_of_allClosed {x : Channel} (h : x.allClosed = true) (b : BankIx) : (x.bank b).state = .closed :=
  beq_iff_eq.1 (List.all_eq_true.1 h b (by revert b; decide))

theorem not_waking_of_serves {x : Channel} (h : x.serves = true) : x.state ≠ .waking := by
  intro hw
  simp [Channel.serves, hw] at h

/-- A serving command, which the selector grants with no operation in progress, keeps the eighth law. -/
theorem restOk_of_serving {x y : Channel} (hmaint : x.maint = none) (hserves : x.serves = true) (hx : ¬AtRest x)
    (hs : y.state = x.state) (hi : y.idleTimer = x.idleTimer) (hm : y.maint = x.maint) (h : RestOk x) : RestOk y :=
  restOk_of_not_atRest hx hs hi (fun _ hne => absurd (hm.trans hmaint) hne)
    (fun _ hw => absurd hw (not_waking_of_serves hserves)) h

/-! ### OPEN and CLOSE -/

theorem windowLimit_le (b : Band) : windowLimit b ≤ 4 := by
  cases b <;> decide

theorem chanKept_issueOpen {th : Nat} {x : Channel} {now row : Nat} {band : Band} {b : BankIx}
    (h : x.grant now band = some (.openRow b row)) : ChanKept th x (x.issueOpen now b row) := by
  obtain ⟨hserves, -, -, hopens, e, he, -, -⟩ := grant_open h
  obtain ⟨-, hmaint, -⟩ := grant_cases h
  refine { rest := restOk_of_serving hmaint hserves (not_atRest_of_mem he) rfl rfl rfl, window := fun _ => ?_ }
  simp only [Channel.opensAllowed, Bool.and_eq_true, decide_eq_true_eq] at hopens
  show (x.window ++ [_]).length ≤ 4
  rw [List.length_append, List.length_singleton]
  have := windowLimit_le band
  omega

theorem chanKept_issueClose {th : Nat} {x : Channel} {now : Nat} {band : Band} {b : BankIx}
    (h : x.grant now band = some (.closeBank b)) : ChanKept th x (x.issueClose now b) := by
  obtain ⟨hserves, hmay⟩ := grant_close h
  obtain ⟨-, hmaint, -⟩ := grant_cases h
  refine { rest := restOk_of_serving hmaint hserves (fun hr => ?_) rfl rfl rfl }
  obtain ⟨⟨row, hopen⟩, -⟩ := (mayClose_iff _).1 hmay
  rw [closed_of_allClosed hr.2.2 b] at hopen
  cases hopen

/-! ### Column commands -/

/-- A bypass count gains 1 up to 8, and the entry is starved exactly at 8. -/
theorem passOver_bypass {e : PoolEntry} (h : e.bypass ≤ 8) : e.passOver.bypass = min 8 (e.bypass + 1) := by
  unfold PoolEntry.passOver Config.starveAt
  dsimp only
  split <;> omega

theorem passOver_starved_iff {e : PoolEntry} (h : e.bypass ≤ 8) (hs : e.starved = true ↔ e.bypass = 8) :
    e.passOver.starved = true ↔ e.passOver.bypass = 8 := by
  have hbypass : e.passOver.bypass = 8 ↔ 8 ≤ e.bypass + 1 := by rw [passOver_bypass h]; omega
  have hstarved : e.passOver.starved = true ↔ e.bypass = 8 ∨ e.passOver.bypass = 8 := by
    rw [← hs, ← beq_iff_eq (a := e.passOver.bypass), ← Bool.or_eq_true]
    rfl
  rw [hstarved, hbypass]
  omega

/-- The passing over of the older entries of a bank keeps the order of the counts. -/
theorem bypassOk_poolAfter {pool : List PoolEntry} {i : Nat} {e : PoolEntry} (h : BypassOk pool) :
    BypassOk (poolAfter pool i e) := by
  obtain ⟨hbound, horder⟩ := h
  have hsplit : (pool.take i ++ pool.drop i).Pairwise fun o k => o.bank = k.bank → k.bypass ≤ o.bypass := by
    rwa [List.take_append_drop]
  obtain ⟨holder, -, hcross⟩ := List.pairwise_append.1 hsplit
  have hnewer : (pool.drop (i + 1)).Pairwise fun o k => o.bank = k.bank → k.bypass ≤ o.bypass :=
    horder.sublist (List.drop_sublist _ _)
  have hbank : ∀ o : PoolEntry, (if o.bank = e.bank then o.passOver else o).bank = o.bank := fun o => by
    split <;> rfl
  have hge : ∀ o ∈ pool, o.bypass ≤ (if o.bank = e.bank then o.passOver else o).bypass := fun o ho => by
    split
    · rw [passOver_bypass (hbound o ho).1]
      have := (hbound o ho).1
      omega
    · exact le_rfl
  refine ⟨fun k hk => ?_, List.pairwise_append.2 ⟨List.pairwise_map.2 (holder.imp_of_mem ?_), hnewer, ?_⟩⟩
  · rcases List.mem_append.1 hk with hk | hk
    · obtain ⟨o, ho, rfl⟩ := List.mem_map.1 hk
      obtain ⟨h8, hs⟩ := hbound o (List.mem_of_mem_take ho)
      split
      · exact ⟨by rw [passOver_bypass h8]; omega, passOver_starved_iff h8 hs⟩
      · exact ⟨h8, hs⟩
    · exact hbound k (List.mem_of_mem_drop hk)
  · intro o k ho hk hok hsame
    rw [hbank, hbank] at hsame
    have hle := hok hsame
    rw [hsame]
    split
    · rw [passOver_bypass (hbound o (List.mem_of_mem_take ho)).1, passOver_bypass (hbound k (List.mem_of_mem_take hk)).1]
      omega
    · exact hle
  · intro o' ho' k hk hsame
    obtain ⟨o, ho, rfl⟩ := List.mem_map.1 ho'
    rw [hbank] at hsame
    have hk' : k ∈ pool.drop i := (List.drop_sublist_drop_left pool (Nat.le_succ i)).subset hk
    exact (hcross o ho k hk' hsame).trans (hge o (List.mem_of_mem_take ho))

theorem poolAfter_length_le (pool : List PoolEntry) (i : Nat) (e : PoolEntry) :
    (poolAfter pool i e).length ≤ pool.length := by
  simp only [poolAfter, List.length_append, List.length_map, List.length_take, List.length_drop]
  omega

/-- A column command and what follows it on the bus: a change of the pool, the banks, the bursts and the DRAM words. -/
theorem chanKept_column {th : Nat} {x y : Channel} {now i : Nat} {band : Band} {e : PoolEntry}
    (h : x.grant now band = some (.column i)) (he : x.pool[i]? = some e)
    (hpool : y.pool = poolAfter x.pool i e) (hs : y.state = x.state) (hi : y.idleTimer = x.idleTimer)
    (hm : y.maint = x.maint) (hd : y.debt = x.debt) (hu : y.urgent = x.urgent) (hw : y.window = x.window)
    (hdram : dramWf x.dram = true → dramWf y.dram = true) : ChanKept th x y := by
  obtain ⟨hserves, -, -⟩ := grant_column h
  obtain ⟨-, hmaint, -⟩ := grant_cases h
  exact {
    debt := by simp only [DebtOk, hd, hu, hm]; exact fun _ _ => id
    rest := restOk_of_serving hmaint hserves (not_atRest_of_entry he) hs hi hm
    window := by rw [hw]; exact id
    pool := fun hp => by rw [hpool]; exact (poolAfter_length_le _ _ _).trans hp
    bypass := fun hb => by rw [hpool]; exact bypassOk_poolAfter hb
    dram := hdram }

theorem issueColumn_frame (x : Channel) (now i : Nat) (e : PoolEntry) : x.issueColumn now i e = { x with
    pool := poolAfter x.pool i e, banks := (x.issueColumn now i e).banks
    columnSpacing := (x.issueColumn now i e).columnSpacing, counters := (x.issueColumn now i e).counters } := by
  unfold Channel.issueColumn
  dsimp only
  rw [startRowHold_frame]
  rfl

theorem issueRead_frame (x : Channel) (c : Chan) (now : Nat) (e : PoolEntry) (slot : SlotIx) (cs : List CellChange) :
    x.issueRead c now e slot cs = { x with
      dram := (x.issueRead c now e slot cs).dram, issued := (x.issueRead c now e slot cs).issued
      lastCommand := (x.issueRead c now e slot cs).lastCommand } := by
  unfold Channel.issueRead
  dsimp only
  rw [applyChanges_frame]
  rfl

theorem issueWrite_frame (x : Channel) (now : Nat) (e : PoolEntry) (data : Line) (enable : BitVec 8) :
    x.issueWrite now e data enable = { x with
      dram := (x.issueWrite now e data enable).dram, banks := (x.issueWrite now e data enable).banks
      writeBurst := (x.issueWrite now e data enable).writeBurst
      lastCommand := (x.issueWrite now e data enable).lastCommand } := by
  unfold Channel.issueWrite
  rw [storeLine_frame]
  rfl

theorem chanKept_read {th : Nat} {x : Channel} {c : Chan} {now i : Nat} {band : Band} {e : PoolEntry} {slot : SlotIx}
    {cs : List CellChange} (h : x.grant now band = some (.column i)) (he : x.pool[i]? = some e) :
    ChanKept th x ((x.issueColumn now i e).issueRead c now e slot cs) := by
  refine chanKept_column h he ?_ ?_ ?_ ?_ ?_ ?_ ?_ (fun hd => issueRead_wf c now e slot cs ?_) <;>
    rw [issueColumn_frame] <;> first | rw [issueRead_frame] | exact hd

theorem chanKept_write {th : Nat} {x : Channel} {now i : Nat} {band : Band} {e : PoolEntry} {data : Line}
    {enable : BitVec 8} (h : x.grant now band = some (.column i)) (he : x.pool[i]? = some e) :
    ChanKept th x ((x.issueColumn now i e).issueWrite now e data enable) := by
  refine chanKept_column h he ?_ ?_ ?_ ?_ ?_ ?_ ?_ (fun hd => issueWrite_wf now e data enable ?_) <;>
    rw [issueColumn_frame] <;> first | rw [issueWrite_frame] | exact hd

theorem reportWrite_frame (s : State) (i : StreamIx) (o : OrderNo) :
    ∃ (q : List Response) (l : List FlushRecord), s.reportWrite i o =
      (s.modStream i fun x => { x with flushes := l }).modRet fun r => { r with queue := r.queue ++ q } := by
  have hfold : ∀ (l : List FlushRecord) (t : State), ∃ q : List Response,
      l.foldl (fun t r => t.handOver ⟨i, r.tag, r.order, .flushDone, false⟩) t =
        t.modRet fun r => { r with queue := r.queue ++ q } := by
    intro l
    induction l with
    | nil => exact fun t => ⟨[], by simp [State.modRet]⟩
    | cons f l ih =>
      intro t
      obtain ⟨q, hq⟩ := ih (t.handOver ⟨i, f.tag, f.order, .flushDone, false⟩)
      exact ⟨⟨i, f.tag, f.order, .flushDone, false⟩ :: q, by
        rw [List.foldl_cons, hq]; simp [State.handOver, State.modRet]⟩
  obtain ⟨q, hq⟩ := hfold (flushesDone ((s.stream i).flushes.map (FlushRecord.lower o))) (s.modStream i fun x =>
    { x with flushes := flushesLeft ((s.stream i).flushes.map (FlushRecord.lower o)) })
  exact ⟨q, flushesLeft ((s.stream i).flushes.map (FlushRecord.lower o)), hq⟩

theorem keeps_reportWrite (s : State) (i : StreamIx) (o : OrderNo) : Keeps s (s.reportWrite i o) := by
  obtain ⟨q, l, h⟩ := reportWrite_frame s i o
  rw [h]
  exact (keeps_modStream ⟨rfl, rfl⟩).trans (keeps_modRet fun _ => rfl)

/-! ### Maintenance -/

/-- A maintenance grant finds every bank CLOSED and nothing in progress. -/
theorem grant_maintenance {x : Channel} {now : Nat} {band : Band} {g : Grant} (h : x.grant now band = some g)
    (hg : IsMaintenance g) : x.maint = none ∧ x.allClosed = true ∧ x.maintGrant = some g := by
  obtain ⟨-, hmaint, ⟨hclosed, hm⟩ | ⟨-, hs⟩⟩ := grant_cases h
  · exact ⟨hmaint, hclosed, hm⟩
  · exact absurd hg (serveGrant_serving hs)

/-- An operation other than a refresh is issued with every bank CLOSED. -/
theorem chanKept_occupied {th : Nat} {x y : Channel} {m : Maint} (hmaint : y.maint = some m)
    (hclosed : x.allClosed = true) (hb : y.banks = x.banks) (hp : y.pool = x.pool) (hburst : y.noBurst = x.noBurst)
    (hs : y.state = x.state) (hi : y.idleTimer = x.idleTimer) (hd : y.debt = x.debt) (hu : y.urgent = x.urgent)
    (hw : y.window = x.window) (hdram : y.dram = x.dram)
    (hdebt : DebtOk th x → 1 ≤ th → m.op = .refresh → -7 ≤ x.debt) : ChanKept th x y := by
  have hclosed' : y.allClosed = x.allClosed := allClosed_congr fun b => by rw [Channel.bank, hb]; rfl
  refine { debt := fun h1 _ h => ?_, rest := ?_, window := ?_, pool := ?_, bypass := ?_, dram := ?_ }
  · have hop := hdebt h h1
    obtain ⟨hlo, hhi, hurgent, -⟩ := h
    refine ⟨hd ▸ hlo, hd ▸ hhi, by rw [hu, hd]; exact hurgent, fun m' hm' => ?_⟩
    rw [hmaint, Option.some.injEq] at hm'
    rw [← hm', hd]
    exact hop
  · rintro ⟨-, h2, h3, h4⟩
    refine ⟨fun _ => hclosed'.trans hclosed, ?_, ?_, ?_⟩
    · rw [hs, AtRest, hp, hburst, hclosed']; exact h2
    · rw [hi, AtRest, hp, hburst, hclosed']; exact h3
    · rw [hs, hburst, hclosed']; exact h4
  · rw [hw]; exact id
  · rw [hp]; exact id
  · rw [hp]; exact id
  · rw [hdram]; exact id

/-- A refresh starts from a debt of −7 or more (R95). -/
theorem maintGrant_refresh_debt {th : Nat} {x : Channel} {p : Bool} (h : x.maintGrant = some (.refresh p))
    (hx : DebtOk th x) (hth : 1 ≤ th) : -7 ≤ x.debt := by
  rcases maintGrant_cases h with ⟨-, -, hu⟩ | ⟨hg, -⟩ | ⟨hg, -⟩ | ⟨hg, -⟩ | ⟨hg, -⟩ | ⟨-, hn⟩ | ⟨-, hpull⟩
  · have := hx.2.2.1.1 hu
    omega
  · cases hg
  · cases hg
  · cases hg
  · cases hg
  · have := ((nonUrgentMay_iff x).1 hn).2.1
    omega
  · exact ((pullInMay_iff x).1 hpull).2.1

theorem chanKept_issueRefresh {th : Nat} {x : Channel} {now : Nat} {band : Band} {p : Bool}
    (h : x.grant now band = some (.refresh p)) : ChanKept th x (x.issueRefresh now p) := by
  obtain ⟨-, hclosed, hgrant⟩ := grant_maintenance h (Or.inl ⟨p, rfl⟩)
  exact chanKept_occupied (m := ⟨.refresh, now + x.settings.refreshTime⟩) rfl hclosed rfl rfl rfl rfl rfl rfl rfl rfl rfl
    fun hx h1 _ => maintGrant_refresh_debt hgrant hx h1

theorem chanKept_issueShortTrim {th : Nat} {x : Channel} {now : Nat} {band : Band}
    (h : x.grant now band = some .shortTrim) : ChanKept th x (x.issueShortTrim now) :=
  chanKept_occupied (m := ⟨.shortTrim, now + x.settings.trimShort⟩) rfl
    (grant_maintenance h (Or.inr (Or.inl rfl))).2.1 rfl rfl rfl rfl rfl rfl rfl rfl rfl fun _ _ hop => nomatch hop

theorem chanKept_issueLongTrim {th : Nat} {x : Channel} {now : Nat} {band : Band}
    (h : x.grant now band = some .longTrim) : ChanKept th x (x.issueLongTrim now) :=
  chanKept_occupied (m := ⟨.longTrim, now + x.settings.trimLong⟩) rfl
    (grant_maintenance h (Or.inr (Or.inr (Or.inl rfl)))).2.1 rfl rfl rfl rfl rfl rfl rfl rfl rfl fun _ _ hop => nomatch hop

theorem chanKept_issueSettingsWrite {th : Nat} {x : Channel} {now : Nat} {band : Band}
    (h : x.grant now band = some .settingsWrite) : ChanKept th x (x.issueSettingsWrite now) :=
  chanKept_occupied (m := ⟨.settingsWrite, now + x.settings.settleTime⟩) rfl
    (grant_maintenance h (Or.inr (Or.inr (Or.inr (Or.inl rfl))))).2.1 rfl rfl rfl rfl rfl rfl rfl rfl rfl
    fun _ _ hop => nomatch hop

/-- A stopped account has debt 0, below every threshold. -/
theorem debtOk_zero {th : Nat} {x : Channel} (h1 : 1 ≤ th) (hd : x.debt = 0) (hu : x.urgent = false) : DebtOk th x := by
  refine ⟨?_, ?_, ?_, fun _ _ _ => ?_⟩ <;> rw [hd]
  · decide
  · decide
  · rw [hu]
    simp only [Bool.false_eq_true, false_iff, not_le]
    omega
  · decide

theorem chanKept_enterRetained {th : Nat} {x : Channel} {now : Nat} {band : Band}
    (h : x.grant now band = some .retentionEntry) : ChanKept th x x.enterRetained := by
  obtain ⟨-, hclosed, hgrant⟩ := grant_maintenance h (Or.inr (Or.inr (Or.inr (Or.inr rfl))))
  have hrest : AtRest x := by
    rcases maintGrant_cases hgrant with ⟨hg, -⟩ | ⟨hg, -⟩ | ⟨-, hmay⟩ | ⟨hg, -⟩ | ⟨hg, -⟩ | ⟨hg, -⟩ | ⟨hg, -⟩
    · cases hg
    · cases hg
    · obtain ⟨-, hpool, hburst, -⟩ := (retentionMay_iff x).1 hmay
      exact ⟨hpool, hburst, hclosed⟩
    · cases hg
    · cases hg
    · cases hg
    · cases hg
  exact {
    debt := fun h1 _ _ => debtOk_zero h1 rfl rfl
    rest := restOk_of_state (x := x) (st := .retained) (fun _ _ => hrest) (fun h => nomatch h) }

/-! ### Bank timers and bursts -/

theorem chanKept_modBank {th : Nat} {x : Channel} {b : BankIx} {f : Bank → Bank}
    (h : (f (x.bank b)).state = (x.bank b).state) : ChanKept th x (x.modBank b f) := by
  have hclosed : (x.modBank b f).allClosed = x.allClosed := allClosed_congr fun k => by
    rw [Channel.bank_modBank]
    split
    · next hk => exact hk ▸ h
    · rfl
  refine { rest := ?_ }
  rintro ⟨h1, h2, h3, h4⟩
  exact ⟨fun hm => hclosed.trans (h1 hm), fun hs => ⟨(h2 hs).1, (h2 hs).2.1, hclosed.trans (h2 hs).2.2⟩,
    fun hi => ⟨(h3 hi).1, (h3 hi).2.1, hclosed.trans (h3 hi).2.2⟩, fun hw => ⟨(h4 hw).1, hclosed.trans (h4 hw).2⟩⟩

theorem keeps_bankExpiry {s : State} {c : Chan} {b : BankIx} {t : Bank → Timer} {f : Bank → Bank}
    (h : ∀ k, (f k).state = k.state) : Keeps s (s.bankExpiry c b t f) := by
  unfold State.bankExpiry
  split
  · exact keeps_modChan fun th => chanKept_modBank (h _)
  · exact Keeps.refl s

theorem keeps_chanExpiry {s : State} {c : Chan} {t : Channel → Timer} {f : Channel → Channel}
    (h : ∀ th x, ChanKept th x (f x)) : Keeps s (s.chanExpiry c t f) := by
  unfold State.chanExpiry
  split
  · exact keeps_modChan fun th => h th _
  · exact Keeps.refl s

theorem chanKept_startRowHold (th : Nat) (x : Channel) (now : Nat) (b : BankIx) : ChanKept th x (x.startRowHold now b) := by
  unfold Channel.startRowHold
  split
  · exact chanKept_modBank rfl
  · exact ChanKept.refl _ _

/-- A change of a bank that is not CLOSED keeps the laws: the channel is not at rest, nor in WAKING, nor in maintenance. -/
theorem chanKept_modBank_of_open {th : Nat} {x : Channel} {b : BankIx} {f : Bank → Bank}
    (h : (x.bank b).state ≠ .closed) : ChanKept th x (x.modBank b f) where
  rest := restOk_of_not_atRest (fun hr => h (closed_of_allClosed hr.2.2 b)) rfl rfl
    (fun hx hm => absurd (closed_of_allClosed (hx.1 hm) b) h)
    (fun hx hw => absurd (closed_of_allClosed (hx.2.2.2 hw).2 b) h)

theorem openDue_state {k : Bank} {now : Nat} (h : k.openDue now = true) : k.state ≠ .closed := by
  intro hc
  simp [Bank.openDue, hc] at h

theorem closeDue_state {k : Bank} {now : Nat} (h : k.closeDue now = true) : k.state ≠ .closed := by
  intro hc
  simp [Bank.closeDue, hc] at h

/-- An event of a channel with a burst in flight: it is not at rest, nor in WAKING. -/
theorem chanKept_burst {th : Nat} {x y : Channel} (h : x.noBurst = false)
    (hb : ∀ b, (y.bank b).state = (x.bank b).state) (hs : y.state = x.state) (hi : y.idleTimer = x.idleTimer)
    (hm : y.maint = x.maint) (hp : y.pool = x.pool) (hd : y.debt = x.debt) (hu : y.urgent = x.urgent)
    (hw : y.window = x.window) (hdram : y.dram = x.dram) : ChanKept th x y := by
  have hburst : x.noBurst ≠ true := by rw [h]; decide
  refine chanKept_of_state hd hu hm hw hp hdram (restOk_of_not_atRest (fun hr => hburst hr.2.1) hs hi (fun hx hne => ?_)
    fun hx hwake => absurd (hx.2.2.2 hwake).1 hburst)
  rw [allClosed_congr hb]
  exact hx.1 (hm ▸ hne)

theorem chanKept_endWriteBurst {th : Nat} {x : Channel} {w : WriteBurst} (now : Nat) (h : x.writeBurst = some w) :
    ChanKept th x (x.endWriteBurst now w) := by
  refine chanKept_burst (by simp [Channel.noBurst, h]) (fun b => ?_) rfl rfl rfl rfl rfl rfl rfl rfl
  refine (congrArg Bank.state (Channel.bank_modBank x w.bank b fun k =>
    { k with writeBurst := false, writeRecovery := Timer.start now x.settings.writeRecovery })).trans ?_
  split <;> rfl

theorem keeps_count (s : State) (c : Chan) (f : Counters → Counters) : Keeps s (s.modChan c fun x => x.count f) :=
  keeps_modChan fun th => {}

theorem keeps_setSlot (s : State) (i : SlotIx) (x : Slot) : Keeps s (s.setSlot i x) := keeps_modRet fun _ => rfl

theorem keeps_deliver (s : State) (c : Chan) (d : IssuedRead) : Keeps s (s.deliver c d) := by
  unfold State.deliver
  split
  · next r _ =>
    have hfilled : Keeps s (((s.modChan c fun x => x.count fun k => k.countWords d.words).setSlot d.slot
        (.filled r (returnedLine d.words) (poisonedSet d.words))).handOver
          ⟨r.stream, r.tag, r.order, .readData r.epoch d.slot, false⟩) :=
      (keeps_count s c _).trans ((keeps_setSlot _ _ _).trans (keeps_handOver _ _))
    unfold State.fillSlot
    dsimp only
    split
    · exact hfilled
    · exact hfilled.trans (keeps_raiseNotice rfl)
  · exact (keeps_setSlot s d.slot .free).trans (keeps_retire _ _)
  · exact Keeps.refl s

/-! ### The account and the trims -/

theorem judgeUrgent_iff (x : Channel) (th : Nat) : (x.judgeUrgent th).urgent = true ↔ (th : Int) ≤ x.debt :=
  decide_eq_true_iff

/-- The account after an interval that has expired, before a doze ends (R92, R94). -/
def intervalCounted (x : Channel) (now : Nat) (b : Band) (th : Nat) : Channel :=
  ({ x with
    debt := if x.debt < 8 then x.debt + 1 else x.debt
    interval := Timer.start now (intervalLength b x.settings) } : Channel).judgeUrgent th

theorem intervalExpires_eq (x : Channel) (now : Nat) (b : Band) (th : Nat) : x.intervalExpires now b th =
    if x.state = .doze ∧ 1 ≤ (intervalCounted x now b th).debt then (intervalCounted x now b th).leaveDoze now .active
    else intervalCounted x now b th := rfl

theorem intervalCounted_debt (x : Channel) (now : Nat) (b : Band) (th : Nat) :
    (intervalCounted x now b th).debt = if x.debt < 8 then x.debt + 1 else x.debt := rfl

theorem chanKept_intervalCounted (x : Channel) (now : Nat) (b : Band) (th : Nat) :
    ChanKept th x (intervalCounted x now b th) := by
  refine { debt := fun _ _ h => ?_ }
  obtain ⟨hlo, hhi, -, hmaint⟩ := h
  refine ⟨?_, ?_, judgeUrgent_iff _ th, fun m hm hop => ?_⟩
  · rw [intervalCounted_debt]
    split <;> omega
  · rw [intervalCounted_debt]
    split <;> omega
  · have := hmaint m hm hop
    rw [intervalCounted_debt]
    split <;> omega

theorem chanKept_intervalExpires (x : Channel) (now : Nat) (b : Band) (th : Nat) :
    ChanKept th x (x.intervalExpires now b th) := by
  rw [intervalExpires_eq]
  have hcounted := chanKept_intervalCounted x now b th
  split
  · exact hcounted.trans (chanKept_leaveDoze now (by decide) (by decide))
  · exact hcounted

theorem keeps_overdue (s : State) (c : Chan) : Keeps s (s.overdue c) :=
  (keeps_count s c _).trans (keeps_raiseBoth (by simp) rfl)

theorem completes_iff {x : Channel} {now : Nat} {op : MaintOp} :
    x.completes now op = true ↔ ∃ m, x.maint = some m ∧ m.op = op ∧ m.expires ≤ now := by
  unfold Channel.completes
  split
  · next m hm => simp [hm]
  · next hm => simp [hm]

/-- The end of an operation, with what it leaves of the account. -/
theorem chanKept_maintEnds (th : Nat) (x : Channel) : ChanKept th x { x with maint := none } where
  debt _ _ h := ⟨h.1, h.2.1, h.2.2.1, fun m hm => nomatch hm⟩
  rest h := ⟨fun hm => absurd rfl hm, h.2⟩

theorem chanKept_refreshCompletes {x : Channel} {now th : Nat} (h : x.completes now .refresh = true) :
    ChanKept th x (x.refreshCompletes th) where
  debt _ _ hx := by
    obtain ⟨m, hm, hop, -⟩ := completes_iff.1 h
    have hdebt := hx.2.2.2 m hm hop
    obtain ⟨-, hhi, -⟩ := hx
    refine ⟨?_, ?_, judgeUrgent_iff _ th, fun m hm => nomatch hm⟩
    · show -8 ≤ if x.debtHeld then (0 : Int) else x.debt - 1
      split <;> omega
    · show (if x.debtHeld then (0 : Int) else x.debt - 1) ≤ 8
      split <;> omega
  rest h := ⟨fun hm => absurd rfl hm, h.2⟩

theorem chanKept_shortTrimCompletes (th : Nat) (x : Channel) (now : Nat) : ChanKept th x (x.shortTrimCompletes now) := by
  unfold Channel.shortTrimCompletes
  dsimp only
  split
  · exact (chanKept_maintEnds th x).trans {}
  · exact (chanKept_maintEnds th x).trans {}

theorem chanKept_longTrimCompletes (th : Nat) (x : Channel) (now : Nat) : ChanKept th x (x.longTrimCompletes now) :=
  (chanKept_maintEnds th x).trans {}

/-- The account starts afresh, from debt 0. -/
theorem chanKept_freshAccount (th : Nat) (x : Channel) (now : Nat) (b : Band) : ChanKept th x (x.freshAccount now b) where
  debt h1 _ _ := debtOk_zero h1 rfl rfl

theorem keeps_enterActive (s : State) (c : Chan) : Keeps s (s.enterActive c) := by
  refine Keeps.trans (keeps_modChan fun th => ?_) (keeps_endLong _ c .ok)
  exact ((chanKept_freshAccount th _ s.now s.band).trans (chanKept_active th _)).trans {}

theorem keeps_afterLongTrim (s : State) (c : Chan) (requested : Bool) : Keeps s (s.afterLongTrim c requested) := by
  unfold State.afterLongTrim
  split
  · exact keeps_enterActive s c
  · split
    · exact keeps_enterActive s c
    · exact keeps_modChan fun th => {}
  · split
    · exact keeps_endLong s c .ok
    · exact Keeps.refl s

theorem keeps_afterSettingsWrite (s : State) (c : Chan) : Keeps s (s.afterSettingsWrite c) := by
  unfold State.afterSettingsWrite
  split
  · exact keeps_modChan fun th => {}
  · exact (keeps_modChan fun th => chanKept_active th _).trans (keeps_endLong _ c .ok)
  · exact Keeps.refl s

/-! ### The doze -/

theorem isRunning_of_due {t : Timer} {now : Nat} (h : t.due now = true) : t.isRunning = true := by
  cases t with
  | running => rfl
  | stopped => cases h
  | expired => cases h

theorem restOk_of_enterDoze {x : Channel} (hrest : AtRest x) (h : RestOk x) :
    RestOk { x with state := .doze, idleTimer := .stopped } :=
  ⟨h.1, fun _ => hrest, fun hr => (nomatch hr), fun hw => nomatch hw⟩

theorem chanKept_enterDoze {th : Nat} {x : Channel} {now : Nat} (h : x.idleTimer.due now = true) :
    ChanKept th x x.enterDoze :=
  chanKept_of_state rfl rfl rfl rfl rfl rfl fun hx => restOk_of_enterDoze (hx.2.2.1 (isRunning_of_due h)) hx

/-! ### The pass over the commands -/

theorem keeps_credit (s : State) (n : Nat) : Keeps s (s.modLink fun l => l.takeCredit n) := by
  refine keeps_modLink id fun h => ?_
  obtain ⟨hlen, hseq, hpoint, htimer, hattempts, hcredits⟩ := h
  refine ⟨hlen, hseq, hpoint, htimer, hattempts, ?_⟩
  show (if 255 < s.link.respCredits + n then 255 else s.link.respCredits + n) ≤ 255
  split <;> omega

theorem keeps_takeAck (s : State) (n : SeqNo) : Keeps s (s.modLink fun l => l.takeAck s.now n) := by
  by_cases h : s.link.offset n < s.link.replay.length
  · have he : (s.modLink fun l => l.takeAck s.now n) = s.modLink fun l => l.acknowledge s.now (s.link.offset n + 1) := by
      rw [State.modLink, Link.takeAck, if_pos h]
      rfl
    rw [he]
    exact keeps_acknowledge s s.now _
  · have he : (s.modLink fun l => l.takeAck s.now n) = s := by
      rw [State.modLink, Link.takeAck, if_neg h]
    rw [he]
    exact Keeps.refl s

theorem keeps_takeHello (s : State) : Keeps s s.takeHello := by
  unfold State.takeHello
  split
  · next h =>
    refine keeps_modLink (fun hc => ?_) id
    exact ⟨fun hup => (nomatch hup), fun _ => hc.2.1 (by rw [h]; decide), fun _ => rfl, fun _ => rfl⟩
  · exact Keeps.refl s
  · exact keeps_linkReset s

/-- The part's HELLO enters UP with every slot free and so owed. -/
theorem keeps_helloSend {s : State} (h : s.link.helloPending = true) : Keeps s (s.modLink fun l =>
    { (l.transmit .hello) with helloPending := false, state := .up, owed := Config.ingressSlots - s.intake.queue.length }) := by
  refine keeps_modLink (fun hc => ?_) id
  obtain ⟨-, hdown, hhello⟩ := hc
  obtain ⟨hqueue, hgranted, -⟩ := hdown (by rw [hhello.1 h]; decide)
  refine ⟨fun _ => ?_, fun hne => absurd rfl hne, fun hf => (nomatch hf), fun hf => nomatch hf⟩
  show s.intake.queue.length + s.link.granted + (64 - s.intake.queue.length) = 64
  rw [hqueue, hgranted]
  rfl

theorem mayTransmit_up {l : Link} (h : l.mayTransmit = true) : l.state = .up ∧ l.helloPending = false := by
  simpa [Link.mayTransmit] using h

theorem controlIdle_mayTransmit {l : Link} (h : l.controlIdle = true) :
    l.mayTransmit = true ∧ l.nakPending = none ∧ l.ackPending = none := by
  simpa [Link.controlIdle, and_assoc] using h

theorem keeps_creditSend {s : State} (h : s.link.controlIdle = true) : Keeps s (s.modLink fun l =>
    { (l.transmit (.credit l.owed)) with granted := l.granted + l.owed, owed := 0 }) := by
  obtain ⟨hup, -⟩ := mayTransmit_up (controlIdle_mayTransmit h).1
  refine keeps_modLink (fun hc => ?_) id
  have hsum := hc.1 hup
  refine ⟨fun _ => ?_, fun hne => absurd hup hne, hc.2.2⟩
  show s.intake.queue.length + (s.link.granted + s.link.owed) + 0 = 64
  omega

theorem keeps_retransmission (s : State) (p : SeqNo) (l' : Link → Link) (hl : ∀ l, l' l = { l with lastTx := (l' l).lastTx }) :
    Keeps s (s.modLink fun l => { l' l with replayPoint := l.nextReplayPoint p }) := by
  refine keeps_modLink (fun hc => ?_) fun hr => ?_
  · show CreditLaw { s with link := { l' s.link with replayPoint := s.link.nextReplayPoint p } }
    rw [hl]
    exact hc
  · dsimp only
    rw [hl]
    exact ⟨hr.1, hr.2.1, replayOk_nextReplayPoint p hr, hr.2.2.2⟩

/-- The port that can take a packet has room for it in the replay buffer. -/
theorem canTake_room {l : Link} (h : l.canTake = true) : l.replay.length < 32 := by
  simp only [Link.canTake, Bool.and_eq_true, decide_eq_true_eq] at h
  exact h.2

theorem keeps_sendNew {s : State} (now : Nat) (b : OutPacket) (h : s.link.canTake = true) :
    Keeps s (s.modLink fun l => l.sendNew now b) :=
  keeps_modLink id fun hr => replayOk_sendNew now b hr (canTake_room h)

theorem chosenResponse_some {s : State} {r : Response} (h : s.chosenResponse = some r) :
    s.noticeTurn = false ∧ s.ret.queue.find? s.sendable = some r := by
  unfold State.chosenResponse at h
  split at h
  · cases h
  · next hn => exact ⟨by simpa using hn, h⟩

/-- A response is sent ahead of at most eight of the waits of a pending notice. -/
theorem noticeWait_of_chosen {s : State} {r : Response} (h : s.chosenResponse = some r) (hn : s.mgmt.notices ≠ []) :
    s.ret.noticeWait ≠ 8 := by
  obtain ⟨hturn, -⟩ := chosenResponse_some h
  intro hw
  simp [State.noticeTurn, hn, hw, Config.noticeWaitMax] at hturn

theorem keeps_releaseResponse {s : State} {r : Response} (h : s.mgmt.notices ≠ [] → s.ret.noticeWait ≠ 8) :
    Keeps s (s.releaseResponse r) where
  tag ht := ht.sublist List.erase_sublist
  notice hn := by
    obtain ⟨hkind, hsorted, hwait, hempty⟩ := hn
    refine ⟨hkind, hsorted, ?_, fun he => ?_⟩
    · show (if s.mgmt.notices.isEmpty then s.ret.noticeWait else s.ret.noticeWait + 1) ≤ 8
      split
      · exact hwait
      · next hne =>
        have := h (by simpa using hne)
        omega
    · show (if s.mgmt.notices.isEmpty then s.ret.noticeWait else s.ret.noticeWait + 1) = 0
      have he' : s.mgmt.notices = [] := he
      rw [if_pos (List.isEmpty_iff.2 he')]
      exact hempty he'

theorem keeps_releaseRequest (s : State) (r : Response) : Keeps s (s.releaseRequest r) := by
  unfold State.releaseRequest
  split
  · exact (keeps_setSlot s _ .free).trans (keeps_retire _ _)
  · exact keeps_retire s _
  · exact Keeps.refl s

theorem keeps_sendResponse {s : State} {r : Response} (hr : s.chosenResponse = some r) (h : s.link.canTake = true) :
    Keeps s (s.sendResponse r) :=
  ((keeps_sendNew s.now _ h).trans (keeps_releaseResponse fun hn => noticeWait_of_chosen hr hn)).trans
    (keeps_releaseRequest _ r)

theorem keeps_sendNotice {s : State} {n : Notice} (h : s.link.canTake = true) : Keeps s (s.sendNotice n) := by
  refine (keeps_sendNew s.now (.notice s.noticeTarget n.kind n.chan n.detail) h).trans { notice := ?_ }
  rintro ⟨hkind, hsorted, -, -⟩
  refine ⟨fun m hm => hkind m (List.mem_of_mem_tail hm), ?_, Nat.zero_le 8, fun _ => rfl⟩
  exact hsorted.sublist ((List.tail_sublist _).map _)

end Sys2Proof.Proofs
end

section
/-! What every step keeps: one pass over the commands, and the laws that are inductive by themselves (O4 to O7, O11 to
O14). -/

namespace Sys2Proof.Proofs

-- One proof after the other, in the memory that the check allows.
set_option Elab.async false

open Sys2Proof Sys2Proof.Machine Sys2Proof.Safety Sys2Proof.Laws

/-- What a command answers keeps the laws. -/
def KeepsTo (s : State) (o : Host.Outcome State Fault Refusal) : Prop := ∀ t, o = .next t → Keeps s t

theorem keepsTo_next {s t : State} (h : Keeps s t) : KeepsTo s (.next t) := by
  intro u hu
  cases hu
  exact h

/-- A command that acts under a condition, and leaves the state as it is otherwise. -/
theorem keepsTo_ite {s t : State} {p : Prop} [Decidable p] (h : p → Keeps s t) :
    KeepsTo s (.next (if p then t else s)) := by
  refine keepsTo_next ?_
  split
  · next hp => exact h hp
  · exact Keeps.refl s

theorem keeps_openRow (c : Chan) (s : State) : KeepsTo s (execOpenRow c s) := by
  refine keepsTo_next ?_
  split
  · next b row h => exact keeps_issueOn fun th => chanKept_issueOpen h
  · exact Keeps.refl s

theorem keeps_closeBank (c : Chan) (s : State) : KeepsTo s (execCloseBank c s) := by
  refine keepsTo_next ?_
  split
  · next b h => exact keeps_issueOn fun th => chanKept_issueClose h
  · exact Keeps.refl s

theorem keeps_readColumn (c : Chan) (cs : List CellChange) (s : State) : KeepsTo s (execReadColumnCommand c cs s) := by
  refine keepsTo_next ?_
  split
  · next i h =>
    split
    · next e he =>
      split
      · exact keeps_issueOn fun th => chanKept_read h he
      · exact Keeps.refl s
    · exact Keeps.refl s
  · exact Keeps.refl s

theorem keeps_writeColumn (c : Chan) (s : State) : KeepsTo s (execWriteColumnCommand c s) := by
  refine keepsTo_next ?_
  split
  · next i h =>
    split
    · next e he =>
      split
      · exact (keeps_issueOn fun th => chanKept_write h he).trans
          ((keeps_handOver _ _).trans (keeps_reportWrite _ e.stream e.order))
      · exact Keeps.refl s
    · exact Keeps.refl s
  · exact Keeps.refl s

theorem keeps_refresh (c : Chan) (s : State) : KeepsTo s (execRefresh c s) := by
  refine keepsTo_next ?_
  split
  · next p h => exact keeps_issueOn fun th => chanKept_issueRefresh h
  · exact Keeps.refl s

theorem keeps_shortTrim (c : Chan) (s : State) : KeepsTo s (execShortTrim c s) := by
  refine keepsTo_next ?_
  split
  · next h => exact keeps_issueOn fun th => chanKept_issueShortTrim h
  · exact Keeps.refl s

theorem keeps_longTrim (c : Chan) (s : State) : KeepsTo s (execLongTrim c s) := by
  refine keepsTo_next ?_
  split
  · next h => exact keeps_issueOn fun th => chanKept_issueLongTrim h
  · exact Keeps.refl s

theorem keeps_settingsWriteStep (c : Chan) (s : State) : KeepsTo s (execSettingsWriteStep c s) := by
  refine keepsTo_next ?_
  split
  · next h => exact keeps_issueOn fun th => chanKept_issueSettingsWrite h
  · exact Keeps.refl s

theorem keeps_retentionEntry (c : Chan) (s : State) : KeepsTo s (execRetentionEntryStep c s) := by
  refine keepsTo_next ?_
  split
  · next h => exact (keeps_issueOn fun th => chanKept_enterRetained h).trans (keeps_endLong _ c .ok)
  · exact Keeps.refl s

theorem keeps_openToAccess (c : Chan) (b : BankIx) (s : State) : KeepsTo s (execOpenToAccessExpiry c b s) :=
  keepsTo_ite fun h => keeps_modChan fun th =>
    (chanKept_modBank_of_open (openDue_state h)).trans (chanKept_startRowHold th _ s.now b)

theorem keeps_closeTime (c : Chan) (b : BankIx) (s : State) : KeepsTo s (execCloseTimeExpiry c b s) :=
  keepsTo_ite fun h => (keeps_modChan fun _ => chanKept_modBank_of_open (closeDue_state h)).trans (keeps_settle _ c)

theorem keeps_writeBurstEnd (c : Chan) (s : State) : KeepsTo s (execWriteBurstEnd c s) := by
  refine keepsTo_next ?_
  split
  · next w hw =>
    split
    · have hend : Keeps s ((s.modChan c fun x => x.endWriteBurst s.now w).settle c) :=
        (keeps_modChan fun _ => chanKept_endWriteBurst s.now hw).trans (keeps_settle _ c)
      dsimp only
      split
      · exact hend.trans (keeps_retire _ _)
      · exact hend
    · exact Keeps.refl s
  · exact Keeps.refl s

theorem keeps_readCompletion (c : Chan) (s : State) : KeepsTo s (execReadCompletion c s) := by
  refine keepsTo_next ?_
  split
  · next d rest hd =>
    split
    · refine Keeps.trans (keeps_modChan fun th => ?_) (keeps_deliver _ c d)
      exact chanKept_burst (by simp [Channel.noBurst, hd]) (fun _ => rfl) rfl rfl rfl rfl rfl rfl rfl rfl
    · exact Keeps.refl s
  · exact Keeps.refl s

theorem keeps_readBurstEnd (c : Chan) (s : State) : KeepsTo s (execReadBurstEnd c s) := by
  refine keepsTo_next ?_
  split
  · next e he =>
    split
    · refine Keeps.trans (keeps_modChan fun th => ?_) (keeps_settle _ c)
      exact chanKept_burst (by simp [Channel.noBurst, he]) (fun _ => rfl) rfl rfl rfl rfl rfl rfl rfl rfl
    · exact Keeps.refl s
  · exact Keeps.refl s

theorem dropExpired_length_le (now : Nat) (l : List WindowEntry) : (dropExpired now l).length ≤ l.length :=
  List.length_eraseP_le

theorem keeps_windowEntry (c : Chan) (s : State) : KeepsTo s (execWindowEntryExpiry c s) :=
  keepsTo_next (keeps_modChan fun _ => { window := fun h => (dropExpired_length_le _ _).trans h })

theorem overdue_settings (s : State) (c : Chan) : (s.overdue c).mgmt.settings = s.mgmt.settings := by
  rw [State.overdue, State.raiseBoth, raiseNotice_settings]
  rfl

theorem keeps_refreshInterval (c : Chan) (s : State) : KeepsTo s (execRefreshIntervalExpiry c s) := by
  refine keepsTo_ite fun _ => Keeps.trans (t := (if 8 ≤ (s.chan c).debt then s.overdue c else s).modChan c
    fun x => x.intervalExpires s.now s.band s.mgmt.settings.urgencyThreshold) ?_ (keeps_settle _ c)
  split
  · exact (keeps_overdue s c).trans
      (keeps_modChan_threshold (by rw [overdue_settings]) (chanKept_intervalExpires _ _ _ _))
  · exact keeps_modChan_threshold rfl (chanKept_intervalExpires _ _ _ _)

theorem keeps_refreshCompletion (c : Chan) (s : State) : KeepsTo s (execRefreshCompletion c s) :=
  keepsTo_ite fun h => (keeps_modChan_threshold rfl (chanKept_refreshCompletes h)).trans (keeps_settle _ c)

theorem keeps_staleTimer (s : State) : KeepsTo s (execStaleTimerExpiry s) := by
  refine keepsTo_ite fun _ => ?_
  have hstale : Keeps s (s.modMgmt fun m => { m with temp := { m.temp with stale := true, staleTimer := .stopped } }) := {}
  have hraised := hstale.trans
    (keeps_raiseNotice (n := ⟨.tempStale, none, signed32 (s.mgmt.temp.last.getD 0)⟩) rfl)
  dsimp only
  split
  · exact hraised.trans (keeps_setBand _ _)
  · exact hraised

theorem keeps_retainExitShort (c : Chan) (s : State) : KeepsTo s (execRetainExitShortExpiry c s) := by
  refine keepsTo_next (keeps_chanExpiry fun th x => ?_)
  have hexpired : ChanKept th x { x with retainExitShort := .expired } := {}
  dsimp only
  split
  · exact (hexpired.trans (chanKept_freshAccount th _ s.now s.band)).trans {}
  · exact hexpired

theorem keeps_retainExitLong (c : Chan) (s : State) : KeepsTo s (execRetainExitLongExpiry c s) := by
  refine keepsTo_ite fun _ => Keeps.trans ?_ (keeps_settle _ c)
  have hexpired : Keeps s (s.modChan c fun x => { x with retainExitLong := .expired }) := keeps_modChan fun th => {}
  split
  · exact hexpired.trans (keeps_enterActive _ c)
  · exact hexpired

theorem keeps_nakSend (s : State) : KeepsTo s (execNakSend s) := by
  refine keepsTo_next ?_
  split
  · split
    · exact keeps_linkFrame rfl
    · exact Keeps.refl s
  · exact Keeps.refl s

theorem keeps_ackSend (s : State) : KeepsTo s (execAckSend s) := by
  refine keepsTo_next ?_
  split
  · split
    · exact keeps_linkFrame rfl
    · exact Keeps.refl s
  · exact Keeps.refl s

theorem keeps_creditSendTo (s : State) : KeepsTo s (execCreditSend s) :=
  keepsTo_ite fun h => keeps_creditSend (by simp only [Bool.and_eq_true] at h; exact h.1)

theorem keeps_retransmissionTo (s : State) : KeepsTo s (execRetransmission s) := by
  refine keepsTo_next ?_
  split
  · next p _ =>
    split
    · refine keeps_retransmission s p (fun l => match l.replay.find? (·.seq == p) with
        | some k => l.transmit (.sequenced k)
        | none => l) fun l => ?_
      split <;> rfl
    · exact Keeps.refl s
  · exact Keeps.refl s

theorem keeps_responseSend (s : State) : KeepsTo s (execResponseSend s) := by
  refine keepsTo_next ?_
  split
  · next r hr =>
    split
    · next h => exact keeps_sendResponse hr h
    · exact Keeps.refl s
  · exact Keeps.refl s

theorem keeps_noticeSend (s : State) : KeepsTo s (execNoticeSend s) := by
  refine keepsTo_next ?_
  split
  · split
    · next h =>
      simp only [Bool.and_eq_true] at h
      exact keeps_sendNotice h.2
    · exact Keeps.refl s
  · exact Keeps.refl s

theorem keeps_replayTimer (s : State) : KeepsTo s (execReplayTimerExpiry s) := by
  refine keepsTo_ite fun h => keeps_callReplay (Keeps.refl s) fun hr => ?_
  have hne : s.link.replay ≠ [] := hr.2.2.2.1.1 (isRunning_of_due h)
  obtain ⟨p, ps, hp⟩ := List.exists_cons_of_ne_nil hne
  rw [hp]
  exact ⟨p.seq, rfl, p, List.mem_cons_self, rfl⟩

theorem keeps_crcFailure (s : State) : KeepsTo s (execPacketCrcFailure s) := by
  have hcounted : Keeps s (s.modLink fun l => { l with counters := { l.counters with crcErrors := bump l.counters.crcErrors } }) :=
    keeps_linkFrame rfl
  unfold execPacketCrcFailure
  dsimp only
  split
  · exact keepsTo_next (hcounted.trans (keeps_wantNak _))
  · exact keepsTo_next hcounted

theorem keeps_functionResetTo (s : State) : KeepsTo s (execFunctionReset s) := by
  refine keepsTo_next (keeps_serveCommand fun q _ _ t => ?_)
  split
  · exact keeps_answer _ _ _
  · exact keeps_functionReset t q

theorem keeps_clearCountersTo (s : State) : KeepsTo s (execClearCounters s) := by
  refine keepsTo_next (keeps_serveCommand fun q _ arg t => ?_)
  split
  · exact (keeps_clearCounters t _).trans (keeps_answer _ _ _)
  · exact keeps_answer _ _ _

theorem keeps_commitMapTo (s : State) : KeepsTo s (execCommitMap s) := by
  refine keepsTo_next (keeps_serveCommand fun q _ _ t => Keeps.trans ?_ (keeps_answer _ _ _))
  split
  · exact keeps_commitMap t
  · exact Keeps.refl t

theorem keeps_readHead (s : State) : KeepsTo s (execRead s) := by
  refine keepsTo_next (keeps_serveHead fun q rest h => ?_)
  split
  · exact keeps_serveRead h _
  · exact Keeps.refl s

theorem keeps_writeHead (s : State) : KeepsTo s (execWrite s) := by
  refine keepsTo_next (keeps_serveHead fun q rest h => ?_)
  split
  · exact keeps_serveWriteRequest h _ _ _
  · exact Keeps.refl s

theorem keeps_mgmtRead (s : State) : KeepsTo s (execMgmtRead s) := by
  refine keepsTo_next (keeps_serveManaged fun q r t => ?_)
  split
  · exact keeps_answer _ _ _
  · exact Keeps.refl t

/-- Every command but cold reset keeps each of the laws, taken by itself. -/
theorem keeps_exec {i : Instr} (s : State) (hi : i ≠ .coldReset) : KeepsTo s (exec i s) := by
  cases i with
  | coldReset => exact absurd rfl hi
  | hello p => exact keepsTo_ite fun _ => keeps_takeHello s
  | resetLink p => exact keepsTo_ite fun _ => keeps_linkReset s
  | ack p => exact keepsTo_ite fun _ => keeps_takeAck s _
  | nak p => exact keepsTo_ite fun _ => keeps_takeNak s _
  | credit p => exact keepsTo_ite fun _ => keeps_credit s _
  | packetCrcFailure => exact keeps_crcFailure s
  | sequencedPacketArrival n p => exact keepsTo_ite fun h => keeps_takeSequenced n p h.1
  | unknownKind => exact keepsTo_next (keeps_serveHead fun q rest h => keeps_taken h (keeps_answer _ _ _))
  | read => exact keeps_readHead s
  | write => exact keeps_writeHead s
  | flush => exact keepsTo_next (keeps_serveHead fun q rest h => keeps_serveFlush h)
  | mgmtRead => exact keeps_mgmtRead s
  | mgmtWrite => exact keepsTo_next (keeps_serveWrite fun q a v t hrow hj => keeps_carryOther hrow hj)
  | orderModeWrite => exact keepsTo_next (keeps_serveWrite fun q a v t _ _ => keeps_carryOrderMode q a v t)
  | managerWrite => exact keepsTo_next (keeps_serveWrite fun q a v t _ hj => keeps_carryManager hj)
  | noticeTargetWrite => exact keepsTo_next (keeps_serveWrite fun q a v t _ _ => keeps_carryNoticeTarget q a v t)
  | mapTableWrite => exact keepsTo_next (keeps_serveWrite fun q a v t _ _ => {})
  | channelSettingsWrite => exact keepsTo_next (keeps_serveWrite fun q a v t _ _ => keeps_modChan fun th => {})
  | rowsPerBankWrite => exact keepsTo_next (keeps_serveWrite fun q a v t _ _ => keeps_modChan fun th => {})
  | urgencyThresholdWrite =>
    exact keepsTo_next (keeps_serveWrite fun q a v t hrow hj => keeps_carryUrgencyThreshold hrow hj)
  | trimSettingsWrite => exact keepsTo_next (keeps_serveWrite fun q a v t hrow _ => keeps_carryTrimSetting hrow)
  | noticeEnableWrite => exact keepsTo_next (keeps_serveWrite fun q a v t hrow _ => keeps_carryNoticeEnable hrow)
  | temperatureReport => exact keepsTo_next (keeps_serveWrite fun q a v t _ _ => keeps_takeReport t _)
  | init => exact keepsTo_next (keeps_serveCommand fun q ch _ t => keeps_channelCommand fun c hj => keeps_acceptInit q hj)
  | hold => exact keepsTo_next (keeps_serveCommand fun q ch _ t => keeps_channelCommand fun c _ => keeps_acceptHold q c t)
  | resume =>
    exact keepsTo_next (keeps_serveCommand fun q ch _ t => keeps_channelCommand fun c _ => keeps_acceptResume q c t)
  | retain =>
    exact keepsTo_next (keeps_serveCommand fun q ch _ t => keeps_channelCommand fun c _ => keeps_acceptRetain q c t)
  | wake => exact keepsTo_next (keeps_serveCommand fun q ch _ t => keeps_channelCommand fun c _ => keeps_acceptWake q c t)
  | trimLong =>
    exact keepsTo_next (keeps_serveCommand fun q ch _ t => keeps_channelCommand fun c _ => keeps_acceptTrimLong q c t)
  | commitMap => exact keeps_commitMapTo s
  | copyLiveToShadow =>
    exact keepsTo_next (keeps_serveCommand fun q _ _ t => Keeps.trans (t := t.modMap MapUnit.copyLive) {} (keeps_answer _ _ _))
  | clearFault =>
    exact keepsTo_next (keeps_serveCommand fun q _ _ t => Keeps.trans (t := t.modMgmt fun m => { m with fault := none })
      { fault := fun _ f hf => nomatch hf } (keeps_answer _ _ _))
  | clearCounters => exact keeps_clearCountersTo s
  | functionReset => exact keeps_functionResetTo s
  | openRow c => exact keeps_openRow c s
  | closeBank c => exact keeps_closeBank c s
  | readColumnCommand c cs => exact keeps_readColumn c cs s
  | writeColumnCommand c => exact keeps_writeColumn c s
  | refresh c => exact keeps_refresh c s
  | shortTrim c => exact keeps_shortTrim c s
  | longTrim c => exact keeps_longTrim c s
  | settingsWriteStep c => exact keeps_settingsWriteStep c s
  | retentionEntryStep c => exact keeps_retentionEntry c s
  | openToAccessExpiry c b => exact keeps_openToAccess c b s
  | closeTimeExpiry c b => exact keeps_closeTime c b s
  | openMinExpiry c b => exact keepsTo_next (keeps_bankExpiry fun _ => rfl)
  | openCycleExpiry c b => exact keepsTo_next (keeps_bankExpiry fun _ => rfl)
  | writeRecoveryExpiry c b => exact keepsTo_next (keeps_bankExpiry fun _ => rfl)
  | rowHoldExpiry c b => exact keepsTo_next (keeps_bankExpiry fun _ => rfl)
  | writeBurstEnd c => exact keeps_writeBurstEnd c s
  | readCompletion c => exact keeps_readCompletion c s
  | readBurstEnd c => exact keeps_readBurstEnd c s
  | columnSpacingExpiry c => exact keepsTo_next (keeps_chanExpiry fun _ _ => {})
  | writeToReadExpiry c => exact keepsTo_next (keeps_chanExpiry fun _ _ => {})
  | readToWriteExpiry c => exact keepsTo_next (keeps_chanExpiry fun _ _ => {})
  | openSpacingExpiry c => exact keepsTo_next (keeps_chanExpiry fun _ _ => {})
  | windowEntryExpiry c => exact keeps_windowEntry c s
  | refreshIntervalExpiry c => exact keeps_refreshInterval c s
  | refreshCompletion c => exact keeps_refreshCompletion c s
  | trimTimerExpiry c =>
    exact keepsTo_ite fun _ => (keeps_modChan fun th => chanKept_shortTrimFallsDue th _ _ _).trans (keeps_settle _ c)
  | graceTimerExpiry c => exact keepsTo_next (keeps_chanExpiry fun _ _ => {})
  | shortTrimCompletion c =>
    exact keepsTo_ite fun _ => (keeps_modChan fun th => chanKept_shortTrimCompletes th _ _).trans (keeps_settle _ c)
  | longTrimCompletion c =>
    exact keepsTo_ite fun _ => ((keeps_modChan fun th => chanKept_longTrimCompletes th _ _).trans
      (keeps_afterLongTrim _ c _)).trans (keeps_settle _ c)
  | staleTimerExpiry => exact keeps_staleTimer s
  | idleTimerExpiry c => exact keepsTo_ite fun h => keeps_modChan fun th => chanKept_enterDoze h.1
  | dozeExitExpiry c => exact keepsTo_ite fun _ => (keeps_modChan fun th => {}).trans (keeps_settle _ c)
  | powerupWaitExpiry c => exact keepsTo_next (keeps_chanExpiry fun _ _ => {})
  | settingsWriteCompletion c =>
    exact keepsTo_ite fun _ => ((keeps_modChan fun th => chanKept_maintEnds th _).trans
      (keeps_afterSettingsWrite _ c)).trans (keeps_settle _ c)
  | retainExitShortExpiry c => exact keeps_retainExitShort c s
  | retainExitLongExpiry c => exact keeps_retainExitLong c s
  | helloSend => exact keepsTo_ite fun h => keeps_helloSend h
  | nakSend => exact keeps_nakSend s
  | ackSend => exact keeps_ackSend s
  | creditSend => exact keeps_creditSendTo s
  | retransmission => exact keeps_retransmissionTo s
  | responseSend => exact keeps_responseSend s
  | noticeSend => exact keeps_noticeSend s
  | replayTimerExpiry => exact keeps_replayTimer s
  | unknownCommandCode => exact keepsTo_next (keeps_serveCommand fun q _ _ t => keeps_answer _ _ _)

/-! ### The laws at reset -/

theorem stateAtReset_chan (g h : Nat) (l : List Instr) (c : Chan) :
    ∃ n, (stateAtReset (channelAtReset g) (channelAtReset h) l).chan c = channelAtReset n := by
  match c with
  | 0 => exact ⟨g, rfl⟩
  | 1 => exact ⟨h, rfl⟩

/-- A law of each channel holds of the part after reset when it holds of a channel after reset. -/
theorem atReset_chans {g h : Nat} {l : List Instr} {p : Channel → Prop} (hp : ∀ n, p (channelAtReset n)) (c : Chan) :
    p ((stateAtReset (channelAtReset g) (channelAtReset h) l).chan c) := by
  obtain ⟨n, hn⟩ := stateAtReset_chan g h l c
  exact hn ▸ hp n

section AtReset

variable (g h : Nat) (l : List Instr)

/-- The part after a reset, cold or first: what its channels' DRAM contents were and what waits is open. -/
abbrev atReset : State := stateAtReset (channelAtReset g) (channelAtReset h) l

theorem atReset_debt : DebtLaw (atReset g h l) := by
  refine ⟨(by decide : 1 ≤ 6), (by decide : 6 ≤ 8), atReset_chans (p := DebtOk 6) fun n => ?_⟩
  exact debtOk_zero (by decide) rfl rfl

theorem channelAtReset_bank (n : Nat) (b : BankIx) : (channelAtReset n).bank b = bankAtReset :=
  Vector.getElem_replicate b.isLt

theorem channelAtReset_atRest (n : Nat) : AtRest (channelAtReset n) :=
  ⟨rfl, rfl, List.all_eq_true.2 fun b _ => by rw [channelAtReset_bank]; rfl⟩

theorem atReset_rest : RestLaw (atReset g h l) :=
  atReset_chans (p := RestOk) fun n => ⟨fun hm => absurd rfl hm, fun _ => channelAtReset_atRest n,
    fun hi => (nomatch hi), fun hw => nomatch hw⟩

theorem atReset_window : WindowLaw (atReset g h l) :=
  atReset_chans (p := fun x => x.window.length ≤ 4) fun _ => Nat.zero_le 4

theorem atReset_pool : PoolLaw (atReset g h l) :=
  atReset_chans (p := fun x => x.pool.length ≤ 32) fun _ => Nat.zero_le 32

theorem atReset_bypass : BypassLaw (atReset g h l) :=
  atReset_chans (p := fun x => BypassOk x.pool) fun _ => ⟨fun _ he => (nomatch he), List.Pairwise.nil⟩

theorem atReset_dram : DramLaw (atReset g h l) :=
  atReset_chans (p := fun x => dramWf x.dram = true) channelAtReset_wf

theorem atReset_tag : TagLaw (atReset g h l) := List.nodup_nil

theorem atReset_credit : CreditLaw (atReset g h l) :=
  ⟨fun hu => (nomatch hu), fun _ => ⟨rfl, rfl, rfl⟩, fun hp => (nomatch hp), fun ht => nomatch ht⟩

theorem atReset_replay : ReplayLaw (atReset g h l) := by
  refine ⟨Nat.zero_le 32, fun i p hp => ?_, fun _ hn => (nomatch hn), ⟨fun hr => (nomatch hr), fun hn => absurd rfl hn⟩,
    Nat.zero_le 4, Nat.zero_le 255⟩
  cases i <;> cases hp

theorem atReset_notice : NoticeLaw (atReset g h l) :=
  ⟨fun _ hn => (nomatch hn), List.Pairwise.nil, Nat.zero_le 8, fun _ => rfl⟩

theorem atReset_fault : FaultLaw (atReset g h l) := fun _ hf => nomatch hf

/-- Stream 0 is the manager and the notice target after reset (R19). -/
theorem atReset_streamEntry (j : StreamIx) : (atReset g h l).stream j = streamAtReset (j == 0) := by
  match j with
  | 0 => rfl
  | 1 => rfl
  | 2 => rfl
  | 3 => rfl

theorem atReset_stream : StreamLaw (atReset g h l) :=
  ⟨⟨0, fun j => by rw [atReset_streamEntry]; exact beq_iff_eq⟩, 0, rfl⟩

end AtReset

/-! ### Every step -/

theorem exec_coldReset_eq (s : State) : exec .coldReset s =
    .next (atReset ((s.chan 0).dramGen + 1) ((s.chan 1).dramGen + 1) s.pending) := rfl

theorem keeps_coldReset (s : State) : KeepsTo s (exec .coldReset s) := by
  rw [exec_coldReset_eq]
  exact keepsTo_next {
    debt := fun _ => atReset_debt _ _ _
    rest := fun _ => atReset_rest _ _ _
    window := fun _ => atReset_window _ _ _
    pool := fun _ => atReset_pool _ _ _
    bypass := fun _ => atReset_bypass _ _ _
    dram := fun _ => atReset_dram _ _ _
    tag := fun _ => atReset_tag _ _ _
    credit := fun _ => atReset_credit _ _ _
    replay := fun _ => atReset_replay _ _ _
    notice := fun _ => atReset_notice _ _ _
    fault := fun _ => atReset_fault _ _ _
    stream := fun _ => atReset_stream _ _ _ }

/-- The tick moves the time alone. -/
theorem keeps_tick (s : State) : Keeps s s.tick := by
  unfold State.tick
  split
  · exact Keeps.refl s
  · exact {}

/-- Every step keeps each of the laws, taken by itself. -/
theorem keeps_step {s t : State} (h : step s = .next t) : Keeps s t := by
  unfold step at h
  split at h
  · cases h
    exact keeps_tick s
  · next i rest _ =>
    have hqueue : Keeps s { s with pending := rest } := {}
    by_cases hi : i = .coldReset
    · subst hi
      exact hqueue.trans (keeps_coldReset _ t h)
    · exact hqueue.trans (keeps_exec _ hi t h)

/-- Settles O5, by the pass over the commands: the account counts within its bounds, and a refresh starts from −7 on. -/
theorem debtLawKept : Obligations.DebtLawKept := fun _ _ h hstep => (keeps_step hstep).debt h

/-- Settles O6: a tag joins the table only where it is not outstanding. -/
theorem tagLawKept : Obligations.TagLawKept := fun _ _ h hstep => (keeps_step hstep).tag h

/-- Settles O7: each slot that is filled uses a credit, and each that is freed is owed again. -/
theorem creditLawKept : Obligations.CreditLawKept := fun _ _ h hstep => (keeps_step hstep).credit h

/-- Settles O11: what a channel is entered with at rest ends before an entry joins its pool or a bank opens. -/
theorem restLawKept : Obligations.RestLawKept := fun _ _ h hstep => (keeps_step hstep).rest h

/-- Settles O12: acknowledgments drop the oldest packets, sends append the next number, replays stay in the buffer. -/
theorem replayLawKept : Obligations.ReplayLawKept := fun _ _ h hstep => (keeps_step hstep).replay h

/-- Settles O13: a raised notice joins at its place, and no response goes ahead of a notice for the ninth time. -/
theorem noticeLawKept : Obligations.NoticeLawKept := fun _ _ h hstep => (keeps_step hstep).notice h

/-- Settles O14: the six laws are kept each by itself. -/
theorem boundsKept : Obligations.BoundsKept :=
  ⟨fun _ _ h hstep => (keeps_step hstep).pool h, fun _ _ h hstep => (keeps_step hstep).bypass h,
    fun _ _ h hstep => (keeps_step hstep).window h, fun _ _ h hstep => (keeps_step hstep).stream h,
    fun _ _ h hstep => (keeps_step hstep).fault h, fun _ _ h hstep => (keeps_step hstep).dram h⟩

end Sys2Proof.Proofs
end

section
/-! The step and the cold reset: what the front of the queue decides (O1), what every block holds after COLD_RESET (O3),
and all the laws at reset (O4). -/

namespace Sys2Proof.Proofs

-- One proof after the other, in the memory that the check allows.
set_option Elab.async false

open Sys2Proof Sys2Proof.Machine Sys2Proof.Safety Sys2Proof.Laws

/-! ### The step -/

theorem tick_of_due {s : State} (h : WorkDue s) : s.tick = s := if_pos ((somethingDue_iff s).2 h)

theorem tick_of_quiet {s : State} (h : ¬WorkDue s) : s.tick = { s with now := s.now + 1 } :=
  if_neg fun hd => h ((somethingDue_iff s).1 hd)

/-- Settles O1: the front command is run on the rest of the queue; with none waiting, the tick asks whether work is due. -/
theorem stepRunsFrontCommand : Obligations.StepRunsFrontCommand := by
  refine ⟨fun c rest s => rfl, fun s hs => ⟨fun hdue => ?_, fun hquiet => ?_⟩⟩
  · rw [step_of_empty hs, tick_of_due hdue]
  · rw [step_of_empty hs, tick_of_quiet hquiet]

/-! ### What the blocks hold after COLD_RESET -/

theorem mapAtReset_region (i : Fin 16) :
    mapAtReset.liveRegions[i] = regionAtReset ∧ mapAtReset.shadowRegions[i] = regionAtReset :=
  ⟨Vector.getElem_replicate i.isLt, Vector.getElem_replicate i.isLt⟩

theorem mapAtReset_layout (i : Fin 4) :
    mapAtReset.liveLayouts[i] = layoutAtReset ∧ mapAtReset.shadowLayouts[i] = layoutAtReset :=
  ⟨Vector.getElem_replicate i.isLt, Vector.getElem_replicate i.isLt⟩

/-- Settles O3: every block of the answered state is the one the model names, and the values are the spec's. -/
theorem coldResetRestoresBlocks : Obligations.ColdResetRestoresBlocks := by
  intro s
  refine ⟨coldResetState s, exec_coldReset s, rfl, rfl, rfl, rfl, rfl, fun i => ?_, mapAtReset_region,
    mapAtReset_layout, rfl, rfl, rfl, fun c => ?_, rfl, rfl, rfl, rfl⟩
  · rw [show (coldResetState s).stream i = streamAtReset (i == 0) from atReset_streamEntry _ _ _ i]
    rfl
  · rw [coldResetState_chan]
    rfl

/-! ### The laws at reset -/

section AtReset

variable (g h : Nat) (l : List Instr)

theorem atReset_slotIsFree (i : SlotIx) : (atReset g h l).ret.slots[i] = .free := returnAtReset_slot i

/-- A channel after reset names no slot. -/
theorem atReset_chanSlots (c : Chan) :
    poolSlots ((atReset g h l).chan c) = [] ∧ issuedSlots ((atReset g h l).chan c) = [] :=
  atReset_chans (p := fun x => poolSlots x = [] ∧ issuedSlots x = []) (fun _ => ⟨rfl, rfl⟩) c

theorem atReset_slot : SlotLaw (atReset g h l) := by
  refine ⟨List.nodup_nil, fun c i hi => ?_, fun i => ⟨fun hw => ?_, fun ⟨c, hc⟩ => ?_⟩, fun i => ⟨fun hf => ?_, fun hq => ?_⟩⟩
  · rw [(atReset_chanSlots g h l c).1] at hi
    exact absurd hi List.not_mem_nil
  · rw [atReset_slotIsFree] at hw
    exact absurd hw Bool.false_ne_true
  · rw [(atReset_chanSlots g h l c).1, (atReset_chanSlots g h l c).2, or_self] at hc
    exact absurd hc List.not_mem_nil
  · rw [atReset_slotIsFree] at hf
    exact absurd hf Bool.false_ne_true
  · exact absurd hq List.not_mem_nil

/-- No response is owed after reset. -/
theorem atReset_owedTags : owedTags (atReset g h l) = [] := by
  have hslots : (slotIxs.filterMap fun i => Slot.reservedFor (atReset g h l).ret.slots[i]) = [] :=
    List.filterMap_eq_nil_iff.2 fun i _ => by rw [atReset_slotIsFree]; rfl
  have hflushes : (streamIxs.flatMap fun i => ((atReset g h l).stream i).flushes.map fun f => (i, f.tag)) = [] :=
    List.flatMap_eq_nil_iff.2 fun i _ => by rw [atReset_streamEntry]; rfl
  unfold owedTags
  rw [hslots, hflushes]
  rfl

theorem atReset_owed : OwedLaw (atReset g h l) := by
  unfold OwedLaw
  rw [atReset_owedTags]
  exact List.Perm.refl _

/-- No request is outstanding after reset. -/
theorem atReset_stamps : stamps (atReset g h l) = [] := by
  have hslots : (slotIxs.filterMap fun i => Slot.epoch (atReset g h l).ret.slots[i]) = [] :=
    List.filterMap_eq_nil_iff.2 fun i _ => by rw [atReset_slotIsFree]; rfl
  unfold stamps
  rw [hslots]
  rfl

theorem atReset_epoch : EpochLaw (atReset g h l) := by
  unfold EpochLaw
  rw [atReset_stamps]
  refine ⟨fun e he => absurd he List.not_mem_nil, rfl, rfl, fun c e he => ?_, fun r hr => absurd hr List.not_mem_nil,
    fun r hr => absurd hr List.not_mem_nil⟩
  have hpool : ((atReset g h l).chan c).pool = [] := atReset_chans (p := fun x => x.pool = []) (fun _ => rfl) c
  rw [hpool] at he
  exact absurd he List.not_mem_nil

end AtReset

/-- Settles O4: no request is under way after reset, and each account, list and timer starts at its bound's inside. -/
theorem lawsHoldAtReset : Obligations.LawsHoldAtReset :=
  ⟨atReset_debt 0 0 [], atReset_tag 0 0 [], atReset_credit 0 0 [], atReset_slot 0 0 [], atReset_owed 0 0 [],
    atReset_epoch 0 0 [], atReset_window 0 0 [], atReset_rest 0 0 [], atReset_pool 0 0 [], atReset_bypass 0 0 [],
    atReset_stream 0 0 [], atReset_replay 0 0 [], atReset_notice 0 0 [], atReset_fault 0 0 [], atReset_dram 0 0 []⟩

end Sys2Proof.Proofs
end

section
/-! The host link, what arrives: link control packets outside UP (O15), the link reset (O16), link control in UP (O17). -/

namespace Sys2Proof.Proofs

-- One proof after the other, in the memory that the check allows.
set_option Elab.async false

open Sys2Proof Sys2Proof.Machine Sys2Proof.Safety Sys2Proof.Laws

/-! ### Which packets have an effect -/

theorem takeHello_of_down {s : State} (h : s.link.state = .down) : s.takeHello = s.modLink Link.train := by
  unfold State.takeHello
  rw [h]

theorem takeHello_of_training {s : State} (h : s.link.state = .training) : s.takeHello = s := by
  unfold State.takeHello
  rw [h]

theorem takeHello_of_up {s : State} (h : s.link.state = .up) : s.takeHello = s.linkReset := by
  unfold State.takeHello
  rw [h]

theorem exec_hello_nil (s : State) : exec (.hello []) s = .next s.takeHello := rfl

theorem exec_hello_of_length {p : List Byte} (h : p.length ≠ 0) (s : State) : exec (.hello p) s = .next s :=
  congrArg Host.Outcome.next (if_neg h)

theorem exec_resetLink_of_up {s : State} (h : s.link.state = .up) : exec (.resetLink []) s = .next s.linkReset :=
  congrArg Host.Outcome.next (if_pos ⟨rfl, h⟩)

theorem exec_resetLink_of_refused {p : List Byte} {s : State} (h : ¬(p.length = 0 ∧ s.link.state = .up)) :
    exec (.resetLink p) s = .next s :=
  congrArg Host.Outcome.next (if_neg h)

/-- An ACK, NAK or CREDIT of a wrong length, or outside UP, is discarded (R167, R168, R182). -/
theorem exec_control_of_refused {p : List Byte} {s : State} (h : ¬(p.length = 4 ∧ s.link.state = .up)) :
    exec (.ack p) s = .next s ∧ exec (.nak p) s = .next s ∧ exec (.credit p) s = .next s :=
  ⟨congrArg Host.Outcome.next (if_neg h), congrArg Host.Outcome.next (if_neg h),
    congrArg Host.Outcome.next (if_neg h)⟩

theorem exec_sequenced_of_refused {n : SeqNo} {k : Packet} {s : State}
    (h : ¬(s.link.state = .up ∧ Packet.linkControlKind k.kind = false)) :
    exec (.sequencedPacketArrival n k) s = .next s :=
  congrArg Host.Outcome.next (if_neg h)

/-- Settles O15: each of these packets acts under a condition on its length and on UP; HELLO alone acts in DOWN. -/
theorem linkControlOutsideUp : Obligations.LinkControlOutsideUp := by
  refine ⟨fun s h => ?_, fun s h => ?_, fun s p n k h => ?_, fun s p => ⟨fun h => ?_, fun h => ?_⟩⟩
  · rw [exec_hello_nil, takeHello_of_down h]
    rfl
  · rw [exec_hello_nil, takeHello_of_training h]
  · obtain ⟨hack, hnak, hcredit⟩ := exec_control_of_refused (p := p) fun hp => h hp.2
    exact ⟨exec_resetLink_of_refused fun hp => h hp.2, hack, hnak, hcredit, exec_sequenced_of_refused fun hp => h hp.1⟩
  · exact ⟨exec_hello_of_length h s, exec_resetLink_of_refused fun hp => h hp.1⟩
  · exact exec_control_of_refused fun hp => h hp.1

/-! ### The link reset (R177) -/

/-- A link reset before its channels settle. -/
abbrev linkEmptied (s : State) : State := (((linkCleared s).discardPool 0).discardPool 1).emptyReturn

theorem linkCleared_chan (s : State) (c : Chan) : (linkCleared s).chan c = (s.chan c).unanswerable :=
  chan_modChan_both _ _ c

theorem linkCleared_flushes (s : State) (i : StreamIx) : ((linkCleared s).stream i).flushes = [] := by
  rw [linkCleared_stream]

/-- What a reset leaves of the slots depends on the pools and on the slots. -/
theorem slotsReset_congr {s s' t t' : State} (hpool : ∀ c, (s'.chan c).pool = (s.chan c).pool)
    (hs : s'.ret.slots = s.ret.slots) (ht : t'.ret.slots = t.ret.slots) (h : SlotsReset s' t') : SlotsReset s t := by
  intro j
  have hj := h j
  simp only [hpool, hs, ht] at hj
  exact hj

/-- No response to a long command can come of the settling after a link reset. -/
theorem linkEmptied_unanswerable (s : State) (c : Chan) (r : LongRecord)
    (h : ((linkEmptied s).chan c).longCmd = some r) : r.answerable = false := by
  obtain ⟨-, -, -, -, -, -, -, -, -, hc⟩ := discards_frame (linkCleared_flushes s)
  rw [(hc c).2, linkCleared_chan] at h
  obtain ⟨r', -, rfl⟩ := Option.map_eq_some_iff.1 h
  rfl

theorem linkReset_ret (s : State) : s.linkReset.ret = (linkEmptied s).ret :=
  settleAll_ret_of_unanswerable (linkEmptied_unanswerable s)

/-- A link reset leaves the blocks at their values after it, and of the map and the notices what retirements leave. -/
theorem linkReset_blocks (s : State) :
    s.linkReset.now = s.now ∧ s.linkReset.pending = s.pending ∧ s.linkReset.link = s.link.reset ∧
    s.linkReset.intake = ((s.modLink Link.reset).emptyIntake []).intake ∧ Retired s s.linkReset ∧
    s.linkReset.ret.queue = [] ∧ s.linkReset.ret.noticeWait = 0 ∧
    (∀ j : StreamIx, s.linkReset.ret.nextToSend[j] = 0) ∧ SlotsReset s s.linkReset := by
  obtain ⟨hret, hnow, hlink, hintake, hpending, hqueue, hwait, hnext, hslots, -⟩ :=
    discards_frame (linkCleared_flushes s)
  obtain ⟨know, klink, kintake, kmap, kmgmt, kpending, -⟩ := settleAll_frame (linkEmptied s)
  have hr := linkReset_ret s
  refine ⟨know.trans hnow, kpending.trans hpending, klink.trans hlink, kintake.trans hintake, ?_, ?_, ?_, ?_, ?_⟩
  · exact (Retired.trans (s := s) (t := linkCleared s) (Retired.of_eq rfl rfl) hret).trans (Retired.of_eq kmap kmgmt)
  · rw [hr]; exact hqueue
  · rw [hr]; exact hwait
  · rw [hr]; exact hnext
  · have hpool : ∀ c, ((linkCleared s).chan c).pool = (s.chan c).pool := fun c => by rw [linkCleared_chan]; rfl
    exact slotsReset_congr (t' := linkEmptied s) hpool rfl (by rw [hr]) hslots

theorem settle_chan_frame (s : State) (c : Chan) : ((s.settle c).chan c).banks = (s.chan c).banks ∧
    ((s.settle c).chan c).writeBurst = (s.chan c).writeBurst ∧
    ((s.settle c).chan c).pool = (s.chan c).pool ∧ ((s.settle c).chan c).issued = (s.chan c).issued := by
  rw [settle_chan_same, judgeIdle_frame]
  split
  · exact ⟨rfl, rfl, rfl, rfl⟩
  · exact ⟨rfl, rfl, rfl, rfl⟩

/-- A link reset empties a channel's pool, marks its burst and its long command, and then the channel settles. -/
theorem linkReset_chan (s : State) (c : Chan) :
    (∀ b : BankIx, (s.linkReset.chan c).bank b = bankEmptied ((s.chan c).bank b) s.now (s.chan c).settings.rowHold) ∧
    (s.linkReset.chan c).writeBurst = (s.chan c).writeBurst.map (burstAtReset s.ret.queue c) ∧
    s.linkReset.chan c = ((s.setChan c { s.chan c with
      pool := [], banks := (s.linkReset.chan c).banks, writeBurst := (s.linkReset.chan c).writeBurst
      longCmd := (s.chan c).longCmd.map fun r => { r with answerable := false } }).settle c).chan c := by
  obtain ⟨-, hnow, -, -, -, -, -, -, -, hc⟩ := discards_frame (linkCleared_flushes s)
  obtain ⟨hbank, hchan⟩ := hc c
  rw [linkCleared_chan] at hbank hchan
  have hsettle : s.linkReset.chan c = ((linkEmptied s).settle c).chan c := settleAll_chan _ c
  obtain ⟨hbanks, hburst, -, -⟩ := settle_chan_frame (linkEmptied s) c
  rw [← hsettle] at hbanks hburst
  refine ⟨fun b => ?_, ?_, ?_⟩
  · rw [Channel.bank, hbanks]
    exact hbank b
  · rw [hburst, hchan]
    rfl
  · rw [hbanks, hburst, hsettle]
    refine settle_chan_congr ?_ hnow
    rw [State.chan_setChan_same]
    exact hchan.trans (by rw [hchan]; rfl)

/-- Settles O16: a HELLO or a RESET_LINK in UP is the link reset, whose discards the library describes; the settling
answers nothing, since no long command can be answered any more. -/
theorem linkResetClearsRequestSide : Obligations.LinkResetClearsRequestSide := by
  intro s i hup hi
  have hexec : exec i s = .next s.linkReset := by
    rcases hi with rfl | rfl
    · rw [exec_hello_nil, takeHello_of_up hup]
    · exact exec_resetLink_of_up hup
  obtain ⟨hnow, hpending, hlink, hintake, hret, hqueue, hwait, hnext, hslots⟩ := linkReset_blocks s
  obtain ⟨hmap, -, hmgmt, hsame, hdrained⟩ := hret
  refine ⟨s.linkReset, hexec, hnow, hpending, hlink, ?_, ?_, fun j => ?_, hqueue, hwait, hnext, hslots, hmap, hmgmt, hsame,
    hdrained, linkReset_chan s⟩
  · rw [hintake]; rfl
  · rw [hintake]; rfl
  · rw [State.stream, hintake]
    exact emptyIntake_stream _ _ j

/-- A notice that is pending stays pending through retirements. -/
theorem Retired.mem_notices {s t : State} (h : Retired s t) {n : Notice} (hn : n ∈ s.mgmt.notices) :
    n ∈ t.mgmt.notices := by
  obtain ⟨-, -, -, hsame, hdrained⟩ := h
  by_cases hp : s.map.previous = 0 ∨ t.map.previous ≠ 0
  · rw [hsame hp]; exact hn
  · simp only [not_or, ne_eq, not_not] at hp
    rw [hdrained hp.1 hp.2]
    exact (mem_raiseNotice _ _ _).2 (Or.inl hn)

/-! ### ACK, NAK, CREDIT and damage in UP -/

theorem exec_ack_up {s : State} (h : s.link.state = .up) (n b1 b2 b3 : Byte) :
    exec (.ack [n, b1, b2, b3]) s = .next (s.modLink fun l => l.takeAck s.now n) :=
  congrArg Host.Outcome.next (if_pos ⟨rfl, h⟩)

theorem exec_nak_up {s : State} (h : s.link.state = .up) (n b1 b2 b3 : Byte) :
    exec (.nak [n, b1, b2, b3]) s = .next (s.takeNak n) :=
  congrArg Host.Outcome.next (if_pos ⟨rfl, h⟩)

theorem exec_credit_up {s : State} (h : s.link.state = .up) (n b1 b2 b3 : Byte) :
    exec (.credit [n, b1, b2, b3]) s = .next (s.modLink fun l => l.takeCredit n.toNat) :=
  congrArg Host.Outcome.next (if_pos ⟨rfl, h⟩)

theorem takeAck_of_held {l : Link} {now : Nat} {n : SeqNo} (h : l.offset n < l.replay.length) :
    l.takeAck now n = l.acknowledge now (l.offset n + 1) := if_pos h

theorem takeAck_of_stale {l : Link} {now : Nat} {n : SeqNo} (h : l.replay.length ≤ l.offset n) :
    l.takeAck now n = l := if_neg (Nat.not_lt.2 h)

/-- A number that the buffer does not hold. -/
theorem length_le_offset {l : Link} {n : SeqNo} (h : l.replay = [] ∨
    ∃ p ps, l.replay = p :: ps ∧ (p :: ps).length ≤ (n - p.seq).toNat) : l.replay.length ≤ l.offset n := by
  rcases h with h | ⟨p, ps, h, hlen⟩
  · rw [h]
    exact Nat.zero_le _
  · rw [offset_of_cons h, h]
    exact hlen

theorem takeCredit_eq (l : Link) (k : Nat) : l.takeCredit k = { l with respCredits := min 255 (l.respCredits + k) } := by
  unfold Link.takeCredit
  by_cases h : 255 < l.respCredits + k
  · rw [if_pos h, Nat.min_eq_left h.le]
  · rw [if_neg h, Nat.min_eq_right (Nat.not_lt.1 h)]

theorem crcFailure_up {s : State} (h : s.link.state = .up) : exec .packetCrcFailure s = .next { s with link := { s.link with
    counters := { s.link.counters with crcErrors := bump s.link.counters.crcErrors }
    nakPending := if s.link.nakOutstanding = false then some s.link.expected else s.link.nakPending
    nakOutstanding := true } } := by
  refine congrArg Host.Outcome.next ((if_pos h).trans ?_)
  unfold State.modLink Link.wantNak
  cases hk : s.link.nakOutstanding with
  | true => simp [hk]
  | false => simp

theorem crcFailure_not_up {s : State} (h : s.link.state ≠ .up) : exec .packetCrcFailure s = .next { s with
    link := { s.link with counters := { s.link.counters with crcErrors := bump s.link.counters.crcErrors } } } :=
  congrArg Host.Outcome.next (if_neg h)

/-! The replay point after an ACK: none stays none; a packet that the buffer still holds keeps it; else the oldest left. -/

theorem acknowledge_replayPoint_of_none {l : Link} (now k : Nat) (h : l.replayPoint = none) :
    (l.acknowledge now (k + 1)).replayPoint = none := by
  rw [acknowledge_eq l now k.succ_ne_zero]
  simp only [h]

theorem acknowledge_replayPoint_of_held {l : Link} (now k : Nat) {m : SeqNo} (h : l.replayPoint = some m)
    (hm : ∃ p ∈ l.replay.drop (k + 1), p.seq = m) : (l.acknowledge now (k + 1)).replayPoint = some m := by
  obtain ⟨p, hp, hseq⟩ := hm
  have hany : (l.replay.drop (k + 1)).any (·.seq == m) = true := List.any_eq_true.2 ⟨p, hp, beq_iff_eq.2 hseq⟩
  rw [acknowledge_eq l now k.succ_ne_zero]
  simp only [h, hany, if_true]

theorem acknowledge_replayPoint_of_gone {l : Link} (now k : Nat) {m : SeqNo} {p : SentPacket} {ps : List SentPacket}
    (h : l.replayPoint = some m) (hdrop : l.replay.drop (k + 1) = p :: ps) (hm : ∀ j ∈ p :: ps, j.seq ≠ m) :
    (l.acknowledge now (k + 1)).replayPoint = some p.seq := by
  have hany : (p :: ps).any (·.seq == m) = false := List.any_eq_false.2 fun j hj => by simpa using hm j hj
  rw [acknowledge_eq l now k.succ_ne_zero]
  simp only [h, hdrop, hany, Bool.false_eq_true, if_false]
  rfl

theorem acknowledge_timer (l : Link) (now k : Nat) : (l.acknowledge now (k + 1)).replayTimer =
    if l.replay.drop (k + 1) = [] then .stopped else .running now (now + 40000) := by
  rw [acknowledge_eq l now k.succ_ne_zero]
  simp only [List.isEmpty_iff]
  rfl

theorem acknowledge_attempts (l : Link) (now k : Nat) : (l.acknowledge now (k + 1)).attempts = 0 := by
  rw [acknowledge_eq l now k.succ_ne_zero]

/-- The replay point goes with the last packet of the buffer. -/
theorem acknowledge_replayPoint_of_emptied {l : Link} (now k : Nat) (h : l.replay.drop (k + 1) = []) :
    (l.acknowledge now (k + 1)).replayPoint = none := by
  rw [acknowledge_eq l now k.succ_ne_zero]
  cases hp : l.replayPoint with
  | none => simp only
  | some m =>
    simp only [h]
    rfl

theorem acknowledge_all {l : Link} (now : Nat) (h : l.replay ≠ []) : l.acknowledge now l.replay.length = { l with
    replay := [], replayPoint := none, replayTimer := .stopped, attempts := 0 } := by
  obtain ⟨k, hk⟩ := Nat.exists_eq_succ_of_ne_zero (mt List.length_eq_zero_iff.1 h)
  have hdrop : l.replay.drop (k + 1) = [] := by rw [← Nat.succ_eq_add_one, ← hk, List.drop_length]
  rw [hk, Nat.succ_eq_add_one, acknowledge_frame, acknowledge_replayPoint_of_emptied now k hdrop, acknowledge_timer,
    if_pos hdrop, acknowledge_attempts, acknowledge_replay, hdrop]

/-- The buffer and its attempts before a replay is called for: a NAK of the oldest number acknowledges nothing. -/
theorem takeNak_of_held {s : State} {n : SeqNo} (h : s.link.offset n < s.link.replay.length) :
    s.takeNak n = (s.modLink fun l => l.acknowledge s.now (s.link.offset n)).callReplay (some n) := if_pos h

theorem takeNak_of_next {s : State} {n : SeqNo} (h : s.link.replay.length ≤ s.link.offset n) (hne : s.link.replay ≠ [])
    (hn : n = s.link.nextSeq) : s.takeNak n = s.modLink fun l => l.acknowledge s.now l.replay.length :=
  (if_neg (Nat.not_lt.2 h)).trans (if_pos ⟨hne, hn⟩)

theorem takeNak_of_stale {s : State} {n : SeqNo} (h : s.link.replay.length ≤ s.link.offset n)
    (hn : ¬(s.link.replay ≠ [] ∧ n = s.link.nextSeq)) : s.takeNak n = s :=
  (if_neg (Nat.not_lt.2 h)).trans (if_neg hn)

theorem callReplay_of_attempts {s : State} (point : Option SeqNo) (h : s.link.attempts < 4) :
    s.callReplay point = { s with link := { s.link with
      replayPoint := point, attempts := s.link.attempts + 1, replayTimer := .running s.now (s.now + 40000)
      counters := { s.link.counters with replays := bump s.link.counters.replays } } } := if_pos h

theorem callReplay_of_failure {s : State} (point : Option SeqNo) (h : 4 ≤ s.link.attempts) {p : SentPacket}
    {ps : List SentPacket} (hr : s.link.replay = p :: ps) :
    s.callReplay point = (s.raiseBoth ⟨.replayFail, none, BitVec.ofNat 32 p.seq.toNat⟩).linkReset := by
  refine (if_neg (Nat.not_lt.2 h)).trans ?_
  rw [hr]
  rfl

theorem takeNak_replays {s : State} {n : SeqNo} {p : SentPacket} {ps : List SentPacket}
    (hr : s.link.replay = p :: ps) (hn : (n - p.seq).toNat < (p :: ps).length)
    (ha : n ≠ p.seq ∨ s.link.attempts < 4) : s.takeNak n = { s with link := { s.link with
      replay := (p :: ps).drop (n - p.seq).toNat
      replayPoint := some n
      replayTimer := .running s.now (s.now + 40000)
      attempts := (if n = p.seq then s.link.attempts else 0) + 1
      counters := { s.link.counters with replays := bump s.link.counters.replays } } } := by
  rw [takeNak_of_held (by rw [offset_of_cons hr, hr]; exact hn), offset_of_cons hr]
  by_cases he : n = p.seq
  · subst he
    have hzero : (p.seq - p.seq).toNat = 0 := by simp
    have hattempts : s.link.attempts < 4 := ha.resolve_left (not_not_intro rfl)
    have hsame : (s.modLink fun l => l.acknowledge s.now 0) = s := rfl
    rw [hzero, hsame, callReplay_of_attempts _ hattempts, if_pos rfl, List.drop_zero, ← hr]
  · have hpos : (n - p.seq).toNat ≠ 0 := fun h0 => he (by
      have : n - p.seq = 0 := BitVec.eq_of_toNat_eq h0
      bv_omega)
    obtain ⟨k, hk⟩ := Nat.exists_eq_succ_of_ne_zero hpos
    rw [hk, Nat.succ_eq_add_one, if_neg he]
    have hattempts : (s.modLink fun l => l.acknowledge s.now (k + 1)).link.attempts = 0 := acknowledge_attempts ..
    rw [callReplay_of_attempts _ (by rw [hattempts]; decide), hattempts, State.modLink, acknowledge_frame,
      acknowledge_replay, hr]

/-- A replay failure is a fault, its notice, and a link reset (R176). -/
theorem replayFailure_link {s : State} (n : Notice) : (s.raiseBoth n).linkReset.link.state = .training ∧
    (s.raiseBoth n).linkReset.link.helloPending = true ∧ (s.raiseBoth n).linkReset.link.replay = [] ∧
    (s.raiseBoth n).linkReset.link.attempts = 0 ∧
    (s.raiseBoth n).linkReset.mgmt.fault = (s.raiseBoth n).mgmt.fault := by
  obtain ⟨-, -, hlink, -, hret, -⟩ := linkReset_blocks (s.raiseBoth n)
  obtain ⟨-, -, hmgmt, -⟩ := hret
  rw [hlink, hmgmt]
  exact ⟨rfl, rfl, rfl, rfl, rfl⟩

/-- Settles O17: each packet by the place of its number in the buffer; the fourth replay without progress is the last. -/
theorem linkControlInUp : Obligations.LinkControlInUp := by
  refine ⟨⟨fun s n b1 b2 b3 p ps hup hr hn => ?_, fun s n b1 b2 b3 hup h => ?_, fun s n b1 b2 b3 hup => ?_, fun s => ?_⟩,
    fun s n b1 b2 b3 p ps hup hr hn ha => ?_, fun s n b1 b2 b3 p ps hup hr hn => ⟨fun hnext => ?_, fun hnext => ?_⟩,
    fun s n b1 b2 b3 hup hr => ?_, fun s b1 b2 b3 p ps hup hr ha => ?_⟩
  · have hheld : s.link.takeAck s.now n = s.link.acknowledge s.now ((n - p.seq).toNat + 1) := by
      rw [takeAck_of_held (by rw [offset_of_cons hr, hr]; exact hn), offset_of_cons hr]
    refine ⟨_, exec_ack_up hup n b1 b2 b3, ?_⟩
    simp only [State.modLink_link, hheld, acknowledge_replay]
    rw [← hr]
    refine ⟨rfl, fun h => ⟨?_, acknowledge_replayPoint_of_emptied _ _ h⟩, fun h => ?_,
      fun h => acknowledge_replayPoint_of_none _ _ h, fun m h hm => acknowledge_replayPoint_of_held _ _ h hm,
      fun m k ks h hk hm => acknowledge_replayPoint_of_gone _ _ h hk hm, ?_⟩
    · rw [acknowledge_timer, if_pos h]
    · rw [acknowledge_timer, if_neg h]
    · rw [State.modLink, hheld, acknowledge_frame, acknowledge_replay, acknowledge_attempts]
  · rw [exec_ack_up hup, State.modLink, takeAck_of_stale (length_le_offset h)]
  · rw [exec_credit_up hup, State.modLink, takeCredit_eq]
  · by_cases hup : s.link.state = .up
    · rw [crcFailure_up hup]
      simp only [hup, true_and, if_true]
    · rw [crcFailure_not_up hup]
      simp only [hup, false_and, if_false]
  · rw [exec_nak_up hup, takeNak_replays hr hn ha]
  · have hne : s.link.replay ≠ [] := by rw [hr]; exact List.cons_ne_nil _ _
    rw [exec_nak_up hup, takeNak_of_next (length_le_offset (Or.inr ⟨p, ps, hr, hn⟩)) hne hnext, State.modLink,
      acknowledge_all _ hne]
  · rw [exec_nak_up hup, takeNak_of_stale (length_le_offset (Or.inr ⟨p, ps, hr, hn⟩)) fun h => hnext h.2]
  · rw [exec_nak_up hup, takeNak_of_stale (length_le_offset (Or.inl hr)) fun h => h.1 hr]
  · have hzero : s.link.offset p.seq = 0 := by rw [offset_of_cons hr, BitVec.sub_self]; rfl
    have hnak : s.takeNak p.seq = (s.raiseBoth ⟨.replayFail, none, BitVec.ofNat 32 p.seq.toNat⟩).linkReset := by
      rw [takeNak_of_held (by rw [hzero, hr]; exact Nat.succ_pos _), hzero]
      exact callReplay_of_failure _ ha hr
    obtain ⟨hstate, hhello, hreplay, hattempts, hfault⟩ :=
      replayFailure_link (s := s) ⟨.replayFail, none, BitVec.ofNat 32 p.seq.toNat⟩
    refine ⟨_, (exec_nak_up hup ..).trans (congrArg Host.Outcome.next hnak), exec_resetLink_of_up ?_, hstate, hhello,
      hreplay, hattempts, fun hnone => ?_⟩
    · rw [State.raiseBoth, raiseNotice_link]; exact hup
    · rw [hfault, raiseBoth_fault_of_empty _ hnone]

end Sys2Proof.Proofs
end

section
/-! The host link: sequenced packets (O18), what the transmit port sends of its own (O19), the order of a STRICT stream's
responses (O21) and the replay timer (O22). -/

namespace Sys2Proof.Proofs

-- One proof after the other, in the memory that the check allows.
set_option Elab.async false

open Sys2Proof Sys2Proof.Machine Sys2Proof.Safety Sys2Proof.Laws

/-! ### A sequenced packet in UP (R169, R170) -/

theorem exec_sequenced_up {s : State} (n : SeqNo) {p : Packet} (hup : s.link.state = .up)
    (hk : Packet.linkControlKind p.kind = false) : exec (.sequencedPacketArrival n p) s = .next (s.takeSequenced n p) :=
  congrArg Host.Outcome.next (if_pos ⟨hup, hk⟩)

/-- The packet expected is acknowledged and goes to the Intake. -/
theorem takeSequenced_expected (s : State) (p : Packet) : s.takeSequenced s.link.expected p =
    State.arrive { s with link := accepted s.link s.link.expected } p := by
  refine (if_pos rfl).trans ?_
  rw [← link_accept_eq]
  rfl

theorem takeSequenced_behind {s : State} {n : SeqNo} (p : Packet) (h : seqBehind s.link.expected n = true) :
    s.takeSequenced n p = s.modLink Link.duplicate := by
  have hne : n ≠ s.link.expected := by
    rintro rfl
    simp [seqBehind] at h
  exact (if_neg hne).trans (if_pos h)

theorem takeSequenced_ahead {s : State} {n : SeqNo} (p : Packet) (hne : n ≠ s.link.expected)
    (h : seqBehind s.link.expected n = false) : s.takeSequenced n p = s.modLink Link.aheadOfSequence :=
  (if_neg hne).trans (if_neg (Bool.eq_false_iff.1 h))

theorem arrive_overrun {s : State} (p : Packet) (h : 64 ≤ s.intake.queue.length) :
    s.arrive p = s.raiseBoth ⟨.overrun, none, tagDetail p.stream p.tag⟩ := if_pos h

theorem arrive_tagReuse {s : State} {p : Packet} (h : s.intake.queue.length < 64)
    (ht : (p.stream, p.tag) ∈ s.intake.tags) : s.arrive p =
      State.raiseBoth { s with link := { s.link with owed := s.link.owed + 1 } } ⟨.tagReuse, none, tagDetail p.stream p.tag⟩ :=
  (if_neg (Nat.not_le.2 h)).trans ((if_pos (List.contains_iff_mem.2 ht)).trans
    (raiseBoth_modLink s ⟨.tagReuse, none, tagDetail p.stream p.tag⟩ fun l => { l with owed := l.owed + 1 }))

theorem arrive_taken {s : State} {p : Packet} (h : s.intake.queue.length < 64)
    (ht : (p.stream, p.tag) ∉ s.intake.tags) : s.arrive p = s.takePacket p :=
  (if_neg (Nat.not_le.2 h)).trans (if_neg fun hc => ht (List.contains_iff_mem.1 hc))

theorem aheadOfSequence_eq (l : Link) : l.aheadOfSequence = { l with
    nakPending := if l.nakOutstanding then l.nakPending else some l.expected
    nakOutstanding := true
    counters := { l.counters with outOfSequence := bump l.counters.outOfSequence } } := by
  unfold Link.aheadOfSequence Link.wantNak
  cases l.nakOutstanding with
  | true => rfl
  | false => rfl

/-- Settles O18: by the number's place beside the one expected, and for that one by the queue and the tag table. -/
theorem sequencedPacketArrives : Obligations.SequencedPacketArrives := by
  refine ⟨fun s p hup hk => ⟨fun hroom hfresh => ?_, fun hroom hused => ?_, fun hfull => ?_⟩,
    fun s n p hup hk => ⟨fun h1 h128 => ?_, fun h1 h127 => ?_⟩⟩
  · rw [exec_sequenced_up _ hup hk, takeSequenced_expected]
    exact congrArg Host.Outcome.next (arrive_taken (s := { s with link := accepted s.link s.link.expected }) hroom hfresh)
  · rw [exec_sequenced_up _ hup hk, takeSequenced_expected]
    exact congrArg Host.Outcome.next (arrive_tagReuse (s := { s with link := accepted s.link s.link.expected }) hroom hused)
  · rw [exec_sequenced_up _ hup hk, takeSequenced_expected]
    exact congrArg Host.Outcome.next (arrive_overrun (s := { s with link := accepted s.link s.link.expected }) p hfull)
  · have hbehind : seqBehind s.link.expected n = true :=
      (Bool.and_eq_true _ _).mpr ⟨decide_eq_true h1, decide_eq_true h128⟩
    rw [exec_sequenced_up _ hup hk, takeSequenced_behind p hbehind]
    rfl
  · have hne : n ≠ s.link.expected := by
      rintro rfl
      simp at h1
    have hbehind : seqBehind s.link.expected n = false := by
      have hsum : (s.link.expected - n).toNat + (n - s.link.expected).toNat = 256 := by bv_omega
      simp only [seqBehind, Bool.and_eq_false_iff, decide_eq_false_iff_not]
      omega
    rw [exec_sequenced_up _ hup hk, takeSequenced_ahead p hne hbehind, State.modLink, aheadOfSequence_eq]

/-! ### What the transmit port sends of its own (R173, items 1 to 5) -/

theorem mayTransmit_of_up {l : Link} (hup : l.state = .up) (hh : l.helloPending = false) : l.mayTransmit = true := by
  simp [Link.mayTransmit, hup, hh]

theorem controlIdle_of_clear {l : Link} (hup : l.state = .up) (hh : l.helloPending = false) (hn : l.nakPending = none)
    (ha : l.ackPending = none) : l.controlIdle = true := by
  simp [Link.controlIdle, mayTransmit_of_up hup hh, hn, ha]

theorem exec_nakSend_pending {s : State} {n : SeqNo} (hn : s.link.nakPending = some n) (h : s.link.mayTransmit = true) :
    exec .nakSend s = .next (s.modLink fun l => { (l.transmit (.nak n)) with
      nakPending := none, counters := { l.counters with naksSent := bump l.counters.naksSent } }) := by
  show Host.Outcome.next _ = _
  rw [hn]
  exact congrArg Host.Outcome.next (if_pos h)

theorem exec_ackSend_pending {s : State} {n : SeqNo} (ha : s.link.ackPending = some n)
    (h : (s.link.mayTransmit && s.link.nakPending.isNone) = true) :
    exec .ackSend s = .next (s.modLink fun l => { (l.transmit (.ack n)) with ackPending := none }) := by
  show Host.Outcome.next _ = _
  rw [ha]
  exact congrArg Host.Outcome.next (if_pos h)

theorem exec_retransmission_called {s : State} {n : SeqNo} {p : SentPacket} (hn : s.link.replayPoint = some n)
    (h : (s.link.controlIdle && s.link.owed = 0) = true) (hp : s.link.replay.find? (·.seq == n) = some p) :
    exec .retransmission s = .next { s with link := { s.link with
      lastTx := some (.sequenced p), replayPoint := s.link.nextReplayPoint n } } := by
  show Host.Outcome.next _ = _
  rw [hn]
  refine congrArg Host.Outcome.next ((if_pos h).trans ?_)
  unfold State.modLink
  dsimp only
  rw [hp]
  rfl

/-- The replay point moves on until the newest packet has been sent again. -/
theorem nextReplayPoint_eq {l : Link} {n : SeqNo} {older newer : List SentPacket} {p : SentPacket}
    (hr : l.replay = older ++ p :: newer)
    (hhead : ∀ q, (older ++ [p]).head? = some q → (n - q.seq).toNat = older.length) :
    l.nextReplayPoint n = if newer = [] then none else some (n + 1) := by
  have hoffset : l.offset n = older.length := by
    unfold Link.offset
    cases older with
    | nil => rw [hr]; exact hhead p rfl
    | cons k ks => rw [hr]; exact hhead k rfl
  unfold Link.nextReplayPoint
  rw [hoffset, hr]
  cases newer with
  | nil => rw [if_neg (by simp), if_pos rfl]
  | cons k ks => rw [if_pos (by simp), if_neg (List.cons_ne_nil _ _)]

theorem find_seq {older newer : List SentPacket} {p : SentPacket} {n : SeqNo} (hp : p.seq = n)
    (hold : ∀ q ∈ older, q.seq ≠ n) : (older ++ p :: newer).find? (·.seq == n) = some p := by
  rw [List.find?_eq_some_iff_append]
  exact ⟨beq_iff_eq.2 hp, older, newer, rfl, fun q hq => by simpa using hold q hq⟩

/-- Settles O19: each item of R173 is sent where the items before it have nothing to send. -/
theorem linkControlSends : Obligations.LinkControlSends := by
  refine ⟨fun s h => ?_, fun s n hup hh hn => ?_, fun s n hup hh hn ha => ?_, fun s hup hh hn ha ho => ?_,
    fun s n older newer p ⟨hup, hh, hn, ha, ho⟩ hpoint hr hp hold hhead => ?_⟩
  · exact congrArg Host.Outcome.next (if_pos h)
  · rw [exec_nakSend_pending hn (mayTransmit_of_up hup hh)]
    rfl
  · rw [exec_ackSend_pending ha (by simp [mayTransmit_of_up hup hh, hn])]
    rfl
  · refine congrArg Host.Outcome.next (if_pos ?_)
    rw [controlIdle_of_clear hup hh hn ha, Bool.true_and]
    exact decide_eq_true ho
  · have hidle : (s.link.controlIdle && s.link.owed = 0) = true := by
      rw [controlIdle_of_clear hup hh hn ha, ho]
      rfl
    rw [exec_retransmission_called hpoint hidle (by rw [hr]; exact find_seq hp hold), nextReplayPoint_eq hr hhead]

/-! ### The order of responses (R142, R143) -/

theorem sendable_iff (s : State) (r : Response) : s.sendable r = true ↔
    (s.stream r.stream).orderMode = .relaxed ∨ r.order = s.ret.nextToSend[r.stream] := by
  simp only [State.sendable, Bool.or_eq_true, beq_iff_eq]

/-- A RESPONSE_SEND sends the response chosen, or leaves the state as it is. -/
theorem exec_responseSend_cases (s : State) : exec .responseSend s = .next s ∨
    ∃ r, s.chosenResponse = some r ∧ exec .responseSend s = .next (s.sendResponse r) := by
  show Host.Outcome.next _ = _ ∨ ∃ r, _ ∧ Host.Outcome.next _ = _
  cases hr : s.chosenResponse with
  | none => exact Or.inl rfl
  | some r =>
    by_cases hc : s.link.canTake = true
    · exact Or.inr ⟨r, rfl, congrArg Host.Outcome.next (if_pos hc)⟩
    · exact Or.inl (congrArg Host.Outcome.next (if_neg hc))

/-- The response chosen is a sendable one of the queue. -/
theorem chosenResponse_spec {s : State} {r : Response} (h : s.chosenResponse = some r) :
    r ∈ s.ret.queue ∧ s.sendable r = true := by
  unfold State.chosenResponse at h
  split at h
  · cases h
  · exact ⟨List.mem_of_find?_eq_some h, List.find?_some h⟩

theorem releaseRequest_queue (s : State) (r : Response) : (s.releaseRequest r).ret.queue = s.ret.queue := by
  unfold State.releaseRequest
  split
  · exact retire_queue _ _
  · exact retire_queue _ _
  · rfl

theorem sendResponse_queue (s : State) (r : Response) : (s.sendResponse r).ret.queue = s.ret.queue.erase r :=
  releaseRequest_queue _ r

/-- Settles O21: what is sent is the response chosen, a sendable one, so on a STRICT stream the next to send. -/
theorem strictStreamsSendInOrder : Obligations.StrictStreamsSendInOrder := by
  refine ⟨sendable_iff, fun s t hexec hne => ?_⟩
  rcases exec_responseSend_cases s with h | ⟨r, hr, h⟩ <;> rw [h] at hexec <;> cases hexec
  · exact absurd rfl hne
  · obtain ⟨hmem, hsend⟩ := chosenResponse_spec hr
    refine ⟨r, hmem, sendResponse_queue s r, fun hstrict => ?_⟩
    refine ((sendable_iff s r).1 hsend).resolve_left fun hrelaxed => ?_
    rw [hstrict] at hrelaxed
    cases hrelaxed

/-! ### The replay timer (R175, R176) -/

theorem due_of_running {t : Timer} {st e now : Nat} (h : t = .running st e) (he : e ≤ now) : t.due now = true := by
  rw [h]
  exact decide_eq_true he

theorem exec_replayTimerExpiry_due {s : State} {p : SentPacket} {ps : List SentPacket}
    (h : s.link.replayTimer.due s.now = true) (hr : s.link.replay = p :: ps) :
    exec .replayTimerExpiry s = .next (s.callReplay (some p.seq)) := by
  refine congrArg Host.Outcome.next ((if_pos h).trans ?_)
  rw [hr]
  rfl

/-- A link reset keeps nothing of the Link Port but its counters and its last packet, so it is one from any link state. -/
theorem linkReset_of_state (s : State) (st : LinkState) :
    State.linkReset { s with link := { s.link with state := st } } = s.linkReset :=
  congrArg (fun u => (((State.discardPool u 0).discardPool 1).emptyReturn).settleAll)
    (show linkCleared { s with link := { s.link with state := st } } = linkCleared s from rfl)

/-- A fault's notice is raised when its kind is enabled and its pair is not pending. -/
theorem mem_raiseBoth_of_empty {s : State} {n : Notice} (he : noticeEnabled s.mgmt.settings.noticeEnable n.kind = true)
    (hn : s.mgmt.notices = []) : n ∈ (s.raiseBoth n).mgmt.notices := by
  refine (mem_raiseNotice _ _ _).2 (Or.inr ⟨rfl, he, ?_⟩)
  rw [raiseFault_notices, hn]
  rfl

/-- Settles O22: before the fourth attempt a replay is called for, and after it the link is reset. -/
theorem replayTimerExpires : Obligations.ReplayTimerExpires := by
  intro s st e p ps htimer hdue hr
  have hexec := exec_replayTimerExpiry_due (due_of_running htimer hdue) hr
  refine ⟨fun ha => ?_, fun ha => ?_⟩
  · rw [hexec, callReplay_of_attempts _ ha]
  · rw [callReplay_of_failure _ ha hr] at hexec
    obtain ⟨hstate, hhello, hreplay, hattempts, hfault⟩ :=
      replayFailure_link (s := s) ⟨.replayFail, none, BitVec.ofNat 32 p.seq.toNat⟩
    obtain ⟨-, -, -, hintake, hret, hqueue, -⟩ :=
      linkReset_blocks (s.raiseBoth ⟨.replayFail, none, BitVec.ofNat 32 p.seq.toNat⟩)
    refine ⟨_, _, rfl, hexec, fun hup => exec_resetLink_of_up ?_, ?_, hfault, hstate, hhello, hreplay, hattempts, ?_, ?_,
      hqueue, fun hnone => ?_, fun henable hnone => ?_⟩
    · rw [State.raiseBoth, raiseNotice_link]; exact hup
    · rw [exec_resetLink_of_up rfl, linkReset_of_state]
    · rw [hintake]; rfl
    · rw [hintake]; rfl
    · rw [hfault, raiseBoth_fault_of_empty _ hnone]
    · refine Retired.mem_notices hret (mem_raiseBoth_of_empty ?_ hnone)
      rw [henable]
      exact (by decide : noticeEnabled 255 .replayFail = true)

end Sys2Proof.Proofs
end

section
/-! The Return Unit's sends (O20): which response or notice is sent, all that its send releases, and the packet on the link
with its bytes. -/

namespace Sys2Proof.Proofs

-- One proof after the other, in the memory that the check allows.
set_option Elab.async false

open Sys2Proof Sys2Proof.Machine Sys2Proof.Safety Sys2Proof.Laws

/-! ### The choice (R144) -/

theorem canTake_of_takes {l : Link} (h : PortTakes l) : l.canTake = true := by
  obtain ⟨⟨hup, hh, hn, ha, ho⟩, hpoint, hcredit, hroom⟩ := h
  have hcredit' : 0 < l.respCredits := hcredit
  have hroom' : l.replay.length < Config.replayEntries := hroom
  simp [Link.canTake, controlIdle_of_clear hup hh hn ha, ho, hpoint, hcredit', hroom']

theorem find_sendable {s : State} {older newer : List Response} {r : Response} (hq : s.ret.queue = older ++ r :: newer)
    (hr : s.sendable r = true) (hold : ∀ q ∈ older, s.sendable q = false) : s.ret.queue.find? s.sendable = some r := by
  rw [hq, List.find?_eq_some_iff_append]
  exact ⟨hr, older, newer, rfl, fun q hq => by rw [hold q hq]; rfl⟩

theorem any_sendable {s : State} {r : Response} (hq : s.ret.queue.find? s.sendable = some r) :
    s.ret.queue.any s.sendable = true :=
  List.any_eq_true.2 ⟨r, List.mem_of_find?_eq_some hq, List.find?_some hq⟩

theorem noticeTurn_of_response {s : State} (hany : s.ret.queue.any s.sendable = true)
    (hn : s.mgmt.notices = [] ∨ s.ret.noticeWait ≠ 8) : s.noticeTurn = false := by
  rcases hn with hn | hn
  · simp [State.noticeTurn, hn]
  · simp [State.noticeTurn, hany, hn, Config.noticeWaitMax]

theorem noticeTurn_of_notice {s : State} (hne : s.mgmt.notices ≠ [])
    (h : s.ret.noticeWait = 8 ∨ ∀ q ∈ s.ret.queue, s.sendable q = false) : s.noticeTurn = true := by
  have hnonempty : s.mgmt.notices.isEmpty = false := by simpa using hne
  rcases h with h | h
  · simp [State.noticeTurn, hnonempty, h, Config.noticeWaitMax]
  · have hany : s.ret.queue.any s.sendable = false := List.any_eq_false.2 fun q hq => by simp [h q hq]
    simp [State.noticeTurn, hnonempty, hany]

theorem exec_responseSend_chosen {s : State} {r : Response} (hturn : s.noticeTurn = false)
    (hr : s.ret.queue.find? s.sendable = some r) (hlink : s.link.canTake = true) :
    exec .responseSend s = .next (s.sendResponse r) := by
  have hchosen : s.chosenResponse = some r := (if_neg (Bool.eq_false_iff.1 hturn)).trans hr
  show Host.Outcome.next _ = _
  rw [hchosen]
  exact congrArg Host.Outcome.next (if_pos hlink)

theorem exec_noticeSend_turn {s : State} {n : Notice} {ns : List Notice} (hn : s.mgmt.notices = n :: ns)
    (hturn : s.noticeTurn = true) (hlink : s.link.canTake = true) : exec .noticeSend s = .next (s.sendNotice n) := by
  have hboth : (s.noticeTurn && s.link.canTake) = true := by rw [hturn, hlink]; rfl
  show Host.Outcome.next _ = _
  rw [hn]
  exact congrArg Host.Outcome.next (if_pos hboth)

/-! ### What a send releases (R143, R146) -/

theorem sendNew_eq (l : Link) (now : Nat) (b : OutPacket) : l.sendNew now b = { l with
    nextSeq := l.nextSeq + 1, respCredits := l.respCredits - 1
    replay := l.replay ++ [⟨l.nextSeq, b⟩]
    replayTimer := if l.replay = [] then .running now (now + 40000) else l.replayTimer
    lastTx := some (.sequenced ⟨l.nextSeq, b⟩) } := by
  unfold Link.sendNew
  simp only [List.isEmpty_iff]
  rfl

/-- The state after a send before the request of the response retires. -/
abbrev releasedBy (s : State) (r : Response) : State :=
  (s.modLink fun l => l.sendNew s.now (s.packetOf r)).releaseResponse r

theorem releaseRequest_of_read {s : State} {r : Response} {e : Epoch} {i : SlotIx} (h : r.body = .readData e i) :
    s.releaseRequest r = (s.setSlot i .free).retire e := by
  unfold State.releaseRequest
  rw [h]

theorem releaseRequest_of_write {s : State} {r : Response} {e : Epoch} {c : Chan} (h : r.body = .writeDone e c) :
    s.releaseRequest r = s.retire e := by
  unfold State.releaseRequest
  rw [h]

theorem releaseRequest_of_other {s : State} {r : Response} (hw : ∀ e c, r.body ≠ .writeDone e c)
    (hr : ∀ e i, r.body ≠ .readData e i) : s.releaseRequest r = s := by
  unfold State.releaseRequest
  split
  · next e i h => exact absurd h (hr e i)
  · next e c h => exact absurd h (hw e c)
  · rfl

/-- The retirement at a send leaves the link, the Intake, the channels, the queue and the order of the streams. -/
theorem releaseRequest_frame (s : State) (r : Response) :
    (s.releaseRequest r).link = s.link ∧ (s.releaseRequest r).intake = s.intake ∧ (s.releaseRequest r).chans = s.chans ∧
    (s.releaseRequest r).now = s.now ∧ (s.releaseRequest r).pending = s.pending ∧
    (s.releaseRequest r).ret.nextToSend = s.ret.nextToSend ∧
    (s.releaseRequest r).mgmt.settings = s.mgmt.settings ∧ (s.releaseRequest r).mgmt.fault = s.mgmt.fault := by
  unfold State.releaseRequest
  split
  · next e i _ =>
    obtain ⟨hnow, hlink, hintake, hchans, hpending, -, -, hnext, hset, -, hfault, -⟩ := retire_frame (s.setSlot i .free) e
    exact ⟨hlink, hintake, hchans, hnow, hpending, hnext, hset, hfault⟩
  · next e c _ =>
    obtain ⟨hnow, hlink, hintake, hchans, hpending, -, -, hnext, hset, -, hfault, -⟩ := retire_frame s e
    exact ⟨hlink, hintake, hchans, hnow, hpending, hnext, hset, hfault⟩
  · exact ⟨rfl, rfl, rfl, rfl, rfl, rfl, rfl, rfl⟩

theorem setSlot_slot (s : State) (i j : SlotIx) (x : Slot) :
    (s.setSlot i x).ret.slots[j] = if j = i then x else s.ret.slots[j] := by
  by_cases h : j = i
  · subst h
    rw [if_pos rfl]
    exact Vector.getElem_set_self _
  · rw [if_neg h]
    exact Vector.getElem_set_ne i.isLt j.isLt fun e => h (Fin.ext e.symm)

theorem releaseRequest_slot (s : State) (r : Response) (j : SlotIx) : (s.releaseRequest r).ret.slots[j] =
    if ∃ e, r.body = .readData e j then .free else s.ret.slots[j] := by
  cases hb : r.body with
  | readData e i =>
    rw [releaseRequest_of_read hb, retire_slots, setSlot_slot]
    refine if_congr ⟨fun h => ⟨e, by rw [h]⟩, fun ⟨_, h⟩ => ?_⟩ rfl rfl
    cases h
    rfl
  | writeDone e c => rw [releaseRequest_of_write hb, retire_slots, if_neg (by simp)]
  | _ => rw [releaseRequest_of_other (by simp [hb]) (by simp [hb]), if_neg (by simp)]

theorem raiseNotice_noticeWait_of_pending {s : State} (n : Notice) (h : s.mgmt.notices ≠ []) :
    (s.raiseNotice n).ret.noticeWait = s.ret.noticeWait := by
  unfold State.raiseNotice
  rw [if_neg (show ¬(s.mgmt.notices.isEmpty = true) by simpa using h)]
  split
  · rfl
  · rfl

/-- A wait that goes on does not begin anew at a MAP_DRAINED. -/
theorem retire_noticeWait_of_pending {s : State} (e : Epoch) (h : s.mgmt.notices ≠ []) :
    (s.retire e).ret.noticeWait = s.ret.noticeWait := by
  unfold State.retire
  split
  · rfl
  · dsimp only
    split
    · exact raiseNotice_noticeWait_of_pending _ h
    · rfl

theorem releaseRequest_noticeWait_of_pending {s : State} (r : Response) (h : s.mgmt.notices ≠ []) :
    (s.releaseRequest r).ret.noticeWait = s.ret.noticeWait := by
  unfold State.releaseRequest
  split
  · exact retire_noticeWait_of_pending _ h
  · exact retire_noticeWait_of_pending _ h
  · rfl

theorem retire_map_current {s : State} {e : Epoch} (h : e = s.map.epoch) :
    (s.retire e).map = { s.map with current := s.map.current - 1 } := by
  unfold State.retire
  rw [if_pos h]
  rfl

theorem retire_map_previous {s : State} {e : Epoch} (h : e ≠ s.map.epoch) :
    (s.retire e).map = { s.map with previous := s.map.previous - 1 } := by
  unfold State.retire
  rw [if_neg h]
  dsimp only
  split
  · exact raiseNotice_map _ _
  · rfl

theorem raiseNotice_of_first {s : State} {n : Notice} (hn : s.mgmt.notices = [])
    (he : noticeEnabled s.mgmt.settings.noticeEnable n.kind = true) :
    (s.raiseNotice n).mgmt.notices = [n] ∧ (s.raiseNotice n).ret.noticeWait = 0 := by
  unfold State.raiseNotice
  simp [hn, he, State.modMgmt, State.modRet, insertNotice]

/-- The last request of the epoch before raises MAP_DRAINED (R39). -/
theorem retire_drained {s : State} {e : Epoch} (h : e ≠ s.map.epoch) (hlast : s.map.previous = 1)
    (hn : s.mgmt.notices = []) (he : noticeEnabled s.mgmt.settings.noticeEnable .mapDrained = true) :
    (s.retire e).mgmt.notices = [⟨.mapDrained, none, BitVec.ofNat 32 (s.map.epoch - 1).toNat⟩] ∧
    (s.retire e).ret.noticeWait = 0 := by
  unfold State.retire
  rw [if_neg h]
  dsimp only
  rw [if_pos hlast]
  exact raiseNotice_of_first hn he

/-- A response with a request: what retires is the request, whichever of the two bodies it has. -/
theorem sendResponse_retired {s : State} {r : Response} {e : Epoch}
    (hb : (∃ c, r.body = .writeDone e c) ∨ ∃ j, r.body = .readData e j) :
    (s.sendResponse r).map = (s.retire e).map ∧ (s.sendResponse r).mgmt = (s.retire e).mgmt ∧
    (s.mgmt.notices = [] → (s.sendResponse r).ret.noticeWait = (s.retire e).ret.noticeWait) := by
  have hwait : s.mgmt.notices = [] → (releasedBy s r).ret.noticeWait = s.ret.noticeWait := fun h =>
    if_pos (List.isEmpty_iff.2 h)
  have hmap : ∀ u : State, u.map = s.map → (u.retire e).map = (s.retire e).map := fun u hu => by
    by_cases he : e = s.map.epoch
    · rw [retire_map_current he, retire_map_current (he.trans (by rw [hu])), hu]
    · rw [retire_map_previous he, retire_map_previous (fun h => he (h.trans (by rw [hu]))), hu]
  have key : ∀ u : State, u.map = s.map → u.mgmt = s.mgmt → u.ret.noticeWait = (releasedBy s r).ret.noticeWait →
      (u.retire e).map = (s.retire e).map ∧ (u.retire e).mgmt = (s.retire e).mgmt ∧
      (s.mgmt.notices = [] → (u.retire e).ret.noticeWait = (s.retire e).ret.noticeWait) := fun u hu hg hw =>
    ⟨hmap u hu, (retire_congr e hg hu).1, fun hn => (retire_congr e hg hu).2 (hw.trans (hwait hn))⟩
  have hsend : s.sendResponse r = (releasedBy s r).releaseRequest r := rfl
  rcases hb with ⟨c, hb⟩ | ⟨j, hb⟩
  · rw [hsend, releaseRequest_of_write hb]
    exact key _ rfl rfl rfl
  · rw [hsend, releaseRequest_of_read hb]
    exact key _ rfl rfl rfl

theorem releasedBy_nextToSend (s : State) (r : Response) (j : StreamIx) : (releasedBy s r).ret.nextToSend[j] =
    if j ≠ r.stream then s.ret.nextToSend[j]
    else if r.ofFunctionReset = true then 0
    else if (s.stream j).orderMode = .strict then s.ret.nextToSend[j] + 1 else s.ret.nextToSend[j] := by
  by_cases h : j = r.stream
  · subst h
    rw [if_neg (not_not_intro rfl)]
    exact Vector.getElem_set_self _
  · rw [if_pos h]
    exact Vector.getElem_set_ne r.stream.isLt j.isLt fun e => h (Fin.ext e.symm)

theorem erase_chosen {s : State} {older newer : List Response} {r : Response} (hr : s.sendable r = true)
    (hold : ∀ q ∈ older, s.sendable q = false) : (older ++ r :: newer).erase r = older ++ newer := by
  have hnot : r ∉ older := fun h => by
    rw [hold r h] at hr
    exact absurd hr Bool.false_ne_true
  rw [List.erase_append_right _ hnot, List.erase_cons_head]

theorem noticeTarget_of_only {s : State} {i : StreamIx} (h : ∀ j : StreamIx, (s.stream j).noticeTarget = true ↔ j = i) :
    s.noticeTarget = i := by
  unfold State.noticeTarget
  cases hf : streamIxs.find? fun j => (s.stream j).noticeTarget with
  | none => exact absurd ((h i).2 rfl) (List.find?_eq_none.1 hf i (List.mem_finRange i))
  | some k => exact (h k).1 (List.find?_some (p := fun j => (s.stream j).noticeTarget) hf)

/-! ### The packet and its bytes (R146, R151; file 11, sections 11.1 and 11.3) -/

theorem flatMap_leBytes_length (l : List (BitVec 64)) : (l.flatMap fun w => leBytes 8 w.toNat).length = 8 * l.length := by
  induction l with
  | nil => rfl
  | cons w t ih =>
    rw [List.flatMap_cons, List.length_append, leBytes_length, ih, List.length_cons]
    omega

theorem tableList_length (d : Line) : (tableList d).length = 8 := Array.length_toList.trans d.size_toArray

theorem lineBytes_length (d : Line) : (lineBytes d).length = 64 := by
  unfold lineBytes
  rw [flatMap_leBytes_length, tableList_length]

/-- A line's bytes around one of its words. -/
theorem lineBytes_split (d : Line) (w : WordIx) : lineBytes d =
    ((tableList d).take w).flatMap (fun x => leBytes 8 x.toNat) ++ leBytes 8 d[w].toNat ++
      ((tableList d).drop (w + 1)).flatMap fun x => leBytes 8 x.toNat := by
  have hw : w.val < (tableList d).length := by
    rw [tableList_length]
    exact w.isLt
  have hword : (tableList d)[w.val] = d[w] := Vector.getElem_toList _
  have hsplit : tableList d = (tableList d).take w ++ d[w] :: (tableList d).drop (w + 1) := by
    rw [← hword, ← List.drop_eq_getElem_cons hw, List.take_append_drop]
  conv_lhs => rw [lineBytes, hsplit]
  rw [List.flatMap_append, List.flatMap_cons, List.append_assoc]

theorem fieldAt_lineBytes (d : Line) (behind : List Byte) (w : WordIx) :
    FieldAt (lineBytes d ++ behind) (8 * w) 8 d[w] := by
  have hlen : (((tableList d).take w).flatMap fun x => leBytes 8 x.toNat).length = 8 * w.val := by
    rw [flatMap_leBytes_length, List.length_take, Nat.min_eq_left]
    rw [tableList_length]
    exact w.isLt.le
  rw [lineBytes_split d w, List.append_assoc]
  exact fieldAt_leBytes _ _ d[w] hlen

/-- The payloads of the part's packets are short enough for the length byte. -/
theorem parts_length_lt (b : OutPacket) : b.parts.2.2.2.length < 256 := by
  cases b with
  | readData s t d p =>
    show (lineBytes d ++ [p, 0#8, 0#8, 0#8]).length < 256
    rw [List.length_append, lineBytes_length]
    exact (by decide : 64 + 4 < 256)
  | mgmtResp s t c v =>
    show (_ ++ leBytes 4 (v.getD 0).toNat).length < 256
    rw [List.length_append, leBytes_length]
    exact (by decide : 4 + 4 < 256)
  | notice s k c d =>
    show (_ ++ leBytes 4 d.toNat).length < 256
    rw [List.length_append, leBytes_length]
    exact (by decide : 4 + 4 < 256)
  | writeDone s t => exact (by decide : 0 < 256)
  | flushDone s t => exact (by decide : 0 < 256)
  | errorResp s t c => exact (by decide : 4 < 256)

theorem mgmtCode_value (k : MgmtCode) : BitVec.ofNat 8 k.value = mgmtCodeNumber k := by
  cases k <;> rfl

theorem errCode_value (k : ErrCode) : BitVec.ofNat 8 k.value = errorCodeNumber k := by
  cases k <;> rfl

theorem noticeKind_byte (k : NoticeKind) : (BitVec.ofNat 8 k.number).toNat = k.number := by
  cases k <;> rfl

theorem chan_byte : ∀ c : Chan, (BitVec.ofNat 8 c.val).toNat = c.val := by decide

theorem zeroBytes_pair (a b : Byte) (t : List Byte) : ZeroBytes ([a, b, 0, 0] ++ t) 2 3 := by
  intro k h2 h3
  have hk : k = 2 ∨ k = 3 := by omega
  rcases hk with rfl | rfl <;> rfl

/-- A header's second byte holds stream and tag (file 11, section 11.1). -/
theorem streamTag_byte (i : StreamIx) (tag : TagIx) : (BitVec.ofNat 8 (i.val * 64 + tag.val)).toNat = i.val * 64 + tag.val := by
  have hi := i.isLt
  have ht := tag.isLt
  rw [BitVec.toNat_ofNat]
  exact Nat.mod_eq_of_lt (by omega)

/-- The header of a packet (file 11, section 11.1). -/
def headerOf (kind : Byte) (i : StreamIx) (tag : TagIx) (n : SeqNo) (b : List Byte) : List Byte :=
  [kind, BitVec.ofNat 8 (i.val * 64 + tag.val), n, BitVec.ofNat 8 b.length]

theorem packetOf_of_read {s : State} {r : Response} {e : Epoch} {j : SlotIx} {rec : ReadRecord} {d : Line} {m : Byte}
    (hb : r.body = .readData e j) (hs : s.ret.slots[j] = .filled rec d m) :
    s.packetOf r = .readData r.stream r.tag d m := by
  unfold State.packetOf
  rw [hb]
  dsimp only
  rw [hs]

theorem packetOf_of_other (s : State) (r : Response) :
    (∀ e c, r.body = .writeDone e c → s.packetOf r = .writeDone r.stream r.tag) ∧
    (r.body = .flushDone → s.packetOf r = .flushDone r.stream r.tag) ∧
    (∀ k v, r.body = .mgmtResp k v → s.packetOf r = .mgmtResp r.stream r.tag k v) ∧
    (∀ k, r.body = .errorResp k → s.packetOf r = .errorResp r.stream r.tag k) := by
  unfold State.packetOf
  refine ⟨fun e c h => ?_, fun h => ?_, fun k v h => ?_, fun k h => ?_⟩ <;> rw [h]

/-- The payload of a READ_DATA: the line, the poison flags, three reserved bytes. -/
theorem readData_payload (d : Line) (m : Byte) : ∃ b, b = lineBytes d ++ [m, 0#8, 0#8, 0#8] ∧ b.length = 68 ∧
    (∀ w : WordIx, FieldAt b (8 * w) 8 d[w]) ∧ b.getD 64 0 = m ∧ ZeroBytes b 65 67 := by
  have hlen := lineBytes_length d
  have htail : ∀ k, (lineBytes d ++ [m, 0#8, 0#8, 0#8]).getD (64 + k) 0 = [m, 0#8, 0#8, 0#8].getD k 0 := fun k => by
    rw [List.getD_append_right _ _ _ _ (by omega), hlen, Nat.add_sub_cancel_left]
  refine ⟨_, rfl, by rw [List.length_append, hlen]; rfl, fieldAt_lineBytes d _, htail 0, fun k h65 h67 => ?_⟩
  obtain ⟨j, rfl⟩ := Nat.exists_eq_add_of_le (show 64 ≤ k by omega)
  rw [htail]
  have hj : j = 1 ∨ j = 2 ∨ j = 3 := by omega
  rcases hj with rfl | rfl | rfl <;> rfl

/-- Two code bytes, two reserved bytes and a word. -/
theorem codes_payload (a c : Byte) (v : Word32) : ∃ b, b = [a, c, 0#8, 0#8] ++ leBytes 4 v.toNat ∧ b.length = 8 ∧
    b.getD 0 0 = a ∧ b.getD 1 0 = c ∧ ZeroBytes b 2 3 ∧ FieldAt b 4 4 v := by
  refine ⟨_, rfl, by rw [List.length_append, leBytes_length]; rfl, rfl, rfl, zeroBytes_pair a c _, ?_⟩
  have h := fieldAt_leBytes [a, c, 0#8, 0#8] [] v (i := 4) (n := 4) rfl
  rwa [List.append_nil] at h

/-- What RESPONSE_SEND leaves of every block. -/
theorem sendResponse_frame (s : State) (r : Response) :
    (s.sendResponse r).link = s.link.sendNew s.now (s.packetOf r) ∧
    (s.sendResponse r).intake = { s.intake with tags := s.intake.tags.erase (r.stream, r.tag) } ∧
    (s.sendResponse r).chans = s.chans ∧ (s.sendResponse r).now = s.now ∧ (s.sendResponse r).pending = s.pending ∧
    (s.sendResponse r).ret.nextToSend = (releasedBy s r).ret.nextToSend ∧
    (s.sendResponse r).mgmt.settings = s.mgmt.settings ∧ (s.sendResponse r).mgmt.fault = s.mgmt.fault :=
  releaseRequest_frame (releasedBy s r) r

/-- RESPONSE_SEND, clause by clause. -/
theorem responseSend_releases {s : State} {older newer : List Response} {r : Response} (hlink : PortTakes s.link)
    (hq : s.ret.queue = older ++ r :: newer) (hr : s.sendable r = true) (hold : ∀ q ∈ older, s.sendable q = false)
    (hn : s.mgmt.notices = [] ∨ s.ret.noticeWait ≠ 8) :
    ∃ t, exec .responseSend s = .next t ∧ t = s.sendResponse r ∧ t.ret.queue = older ++ newer := by
  have hfind := find_sendable hq hr hold
  refine ⟨_, exec_responseSend_chosen (noticeTurn_of_response (any_sendable hfind) hn) hfind (canTake_of_takes hlink), rfl, ?_⟩
  rw [sendResponse_queue, hq, erase_chosen hr hold]

/-- Settles O20: the choice, then what the send releases block by block; a request retires as it would by itself; the bytes
are the parts behind a header. -/
theorem responseAndNoticeSends : Obligations.ResponseAndNoticeSends := by
  refine ⟨fun s older newer r hlink hq hr hold hn => ?_, fun s n ns i hlink hns hturn htarget => ?_,
    fun s r => ⟨fun e j rec d m hb hs => ?_, fun e c hb => ?_, fun hb => ?_, fun k v hb => ?_, fun k hb => ?_⟩,
    fun i n ch d => ?_, fun p kind i tag b hp => ?_⟩
  · obtain ⟨t, hexec, rfl, hqueue⟩ := responseSend_releases hlink hq hr hold hn
    obtain ⟨klink, kintake, kchans, know, kpending, knext, kset, kfault⟩ := sendResponse_frame s r
    refine ⟨_, hexec, hqueue, klink.trans (sendNew_eq ..), kintake, fun j => ?_, fun hne => ?_,
      releaseRequest_slot (releasedBy s r) r, fun e hb => ?_, fun hw hd => ?_, kchans, know, kpending, kset, kfault⟩
    · rw [knext]
      exact releasedBy_nextToSend s r j
    · refine (releaseRequest_noticeWait_of_pending (s := releasedBy s r) r hne).trans (if_neg ?_)
      rw [List.isEmpty_iff]
      exact hne
    · obtain ⟨hmap, hmgmt, hwait⟩ := sendResponse_retired (s := s) hb
      refine ⟨fun he => hmap.trans (retire_map_current he), fun he => hmap.trans (retire_map_previous he), hmgmt, hwait,
        fun he hlast hnone henable => ?_⟩
      rw [hmgmt, hwait hnone]
      exact retire_drained he hlast hnone henable
    · have hsend : s.sendResponse r = releasedBy s r := releaseRequest_of_other hw hd
      rw [hsend]
      exact ⟨rfl, rfl, fun hnone => if_pos (List.isEmpty_iff.2 hnone)⟩
  · have hne : s.mgmt.notices ≠ [] := by rw [hns]; exact List.cons_ne_nil _ _
    rw [exec_noticeSend_turn hns (noticeTurn_of_notice hne hturn) (canTake_of_takes hlink)]
    unfold State.sendNotice State.modLink State.modMgmt State.modRet
    dsimp only
    rw [sendNew_eq, noticeTarget_of_only htarget, hns]
    rfl
  · obtain ⟨b, hb', h⟩ := readData_payload d m
    refine ⟨packetOf_of_read hb hs, b, ?_, h⟩
    rw [packetOf_of_read hb hs, hb']
    rfl
  · obtain ⟨hpacket, -, -, -⟩ := packetOf_of_other s r
    have h := hpacket e c hb
    exact ⟨h, by rw [h]; rfl⟩
  · obtain ⟨-, hpacket, -, -⟩ := packetOf_of_other s r
    have h := hpacket hb
    exact ⟨h, by rw [h]; rfl⟩
  · obtain ⟨-, -, hpacket, -⟩ := packetOf_of_other s r
    have h := hpacket k v hb
    obtain ⟨b, hb', hcodes⟩ := codes_payload (mgmtCodeNumber k) (if v.isSome then 1 else 0) (v.getD 0)
    refine ⟨h, b, ?_, hcodes⟩
    rw [h, hb', ← mgmtCode_value]
    rfl
  · obtain ⟨-, -, -, hpacket⟩ := packetOf_of_other s r
    have h := hpacket k hb
    refine ⟨h, [errorCodeNumber k, 0, 0, 0], ?_, rfl, rfl, fun k h1 h3 => ?_⟩
    · rw [h, ← errCode_value]
      rfl
    · have hk : k = 1 ∨ k = 2 ∨ k = 3 := by omega
      rcases hk with rfl | rfl | rfl <;> rfl
  · obtain ⟨b, hb, hlen, h0, h1, hzero, hfield⟩ := codes_payload (BitVec.ofNat 8 n.number)
      (match ch with | some c => BitVec.ofNat 8 c.val | none => 0xFF#8) d
    refine ⟨b, by rw [hb]; rfl, hlen, ?_, fun c hc => ?_, fun hc => ?_, hzero, hfield⟩
    · rw [h0, noticeKind_byte]
    · subst hc
      rw [h1, chan_byte]
    · subst hc
      exact h1
  · have hlt := parts_length_lt p.body
    rw [hp] at hlt
    refine ⟨headerOf kind i tag p.seq b, leBytes 4 (crc32 (headerOf kind i tag p.seq b ++ b)).toNat, ?_, rfl,
      leBytes_length 4 _, rfl, streamTag_byte i tag, rfl, ?_⟩
    · unfold TxPacket.bytes
      dsimp only
      rw [hp]
      rfl
    · show (BitVec.ofNat 8 b.length).toNat = b.length
      rw [BitVec.toNat_ofNat]
      exact Nat.mod_eq_of_lt hlt

end Sys2Proof.Proofs
end

section
/-! The head of the ingress queue: the form of packets (R180, file 11), and what is refused at the taking (O23). -/

namespace Sys2Proof.Proofs

-- One proof after the other, in the memory that the check allows.
set_option Elab.async false

open Sys2Proof Sys2Proof.Machine Sys2Proof.Safety Sys2Proof.Laws

/-! ### The form of a packet, kind by kind -/

section Form

variable (i : StreamIx) (t : TagIx) (b : List Byte)

/-- The form that the six kinds of the host must have. -/
abbrev ReadForm (b : List Byte) : Prop := b.length = 8 ∧ ZeroBytes b 5 7
abbrev WriteForm (b : List Byte) : Prop := b.length = 72 ∧ ZeroBytes b 6 7
abbrev MgmtReadForm (b : List Byte) : Prop := b.length = 4 ∧ ZeroBytes b 3 3
abbrev MgmtWriteForm (b : List Byte) : Prop := b.length = 8 ∧ ZeroBytes b 3 3
abbrev CommandForm (b : List Byte) : Prop :=
  b.length = 8 ∧ (∀ n, 1 ≤ n → n ≤ 7 → (b.getD 2 0).getLsbD n = false) ∧ ZeroBytes b 3 3 ∧
    ((b.getD 2 0).getLsbD 0 = false → ZeroBytes b 4 7)

theorem malformed_read_iff : Malformed ⟨0x01, i, t, b⟩ ↔ ¬ReadForm b := by
  simp [Malformed]

theorem malformed_write_iff : Malformed ⟨0x02, i, t, b⟩ ↔ ¬WriteForm b := by
  simp [Malformed]

theorem malformed_flush_iff : Malformed ⟨0x03, i, t, b⟩ ↔ b.length ≠ 0 := by
  simp [Malformed]

theorem malformed_mgmtRead_iff : Malformed ⟨0x04, i, t, b⟩ ↔ ¬MgmtReadForm b := by
  simp [Malformed]

theorem malformed_mgmtWrite_iff : Malformed ⟨0x05, i, t, b⟩ ↔ ¬MgmtWriteForm b := by
  simp [Malformed]

theorem malformed_command_iff : Malformed ⟨0x06, i, t, b⟩ ↔ ¬CommandForm b := by
  simp [Malformed]

theorem readForm_iff : (b.length == 8 && allZero (b.drop 5)) = true ↔ ReadForm b := by
  rw [Bool.and_eq_true, beq_iff_eq]
  exact and_congr_right fun h => drop_allZero_iff b 5 3 h (by decide)

theorem writeForm_iff : (b.length == 72 && allZero (byteSlice b 6 2)) = true ↔ WriteForm b := by
  rw [Bool.and_eq_true, beq_iff_eq]
  exact and_congr_right fun _ => allZero_iff b 6 2 (by decide)

theorem mgmtReadForm_iff : (b.length == 4 && byteAt b 3 == 0#8) = true ↔ MgmtReadForm b := by
  rw [Bool.and_eq_true, beq_iff_eq]
  exact and_congr_right fun _ => byte_zero_iff b 3

theorem mgmtWriteForm_iff : (b.length == 8 && byteAt b 3 == 0#8) = true ↔ MgmtWriteForm b := by
  rw [Bool.and_eq_true, beq_iff_eq]
  exact and_congr_right fun _ => byte_zero_iff b 3

theorem commandForm_iff : (b.length == 8 && commandReservedZero b) = true ↔ CommandForm b := by
  rw [commandReservedZero, Bool.and_eq_true, beq_iff_eq, Bool.and_eq_true, Bool.and_eq_true, and_assoc, flags_zero_iff,
    byte_zero_iff, Bool.or_eq_true, allZero_iff b 4 4 (by decide)]
  refine and_congr_right fun _ => and_congr_right fun _ => and_congr_right fun _ => ?_
  rw [← Bool.not_eq_true]
  exact Decidable.or_iff_not_imp_left

end Form

/-- A packet whose form is tested is malformed exactly when the test fails. -/
theorem formed_iff {p : Packet} {x : Request} {form : Prop} {test : Bool}
    (hreq : requestOf p = if test then x else .malformed) (htest : test = true ↔ form) (hp : Malformed p ↔ ¬form)
    (hx : x ≠ .malformed) :
    requestOf p = .malformed ↔ Malformed p := by
  rw [hreq, ite_malformed_iff hx, htest, hp]

theorem requestOf_formed {p : Packet} {x : Request} {form : Prop} {test : Bool}
    (hreq : requestOf p = if test then x else .malformed) (htest : test = true ↔ form) (hp : Malformed p ↔ ¬form)
    (h : ¬Malformed p) : requestOf p = x := by
  rw [hp, not_not, ← htest] at h
  rw [hreq, if_pos h]

theorem requestOf_of_unknown {p : Packet} (h : p.kind ∉ [0x01#8, 0x02#8, 0x03#8, 0x04#8, 0x05#8, 0x06#8]) :
    requestOf p = .malformed := by
  simp only [List.mem_cons, List.not_mem_nil, or_false, not_or] at h
  obtain ⟨h1, h2, h3, h4, h5, h6⟩ := h
  simp [requestOf, h1, h2, h3, h4, h5, h6]

/-- Only a packet of malformed form is refused for its form. -/
theorem requestOf_malformed_iff (p : Packet) : requestOf p = .malformed ↔ Malformed p := by
  by_cases hk : p.kind ∈ [0x01#8, 0x02#8, 0x03#8, 0x04#8, 0x05#8, 0x06#8]
  · obtain ⟨kind, i, t, b⟩ := p
    simp only [List.mem_cons, List.not_mem_nil, or_false] at hk
    rcases hk with rfl | rfl | rfl | rfl | rfl | rfl
    · exact formed_iff (requestOf_read i t b) (readForm_iff b) (malformed_read_iff i t b) (nomatch ·)
    · exact formed_iff (requestOf_write i t b) (writeForm_iff b) (malformed_write_iff i t b) (nomatch ·)
    · exact formed_iff (requestOf_flush i t b) beq_iff_eq (malformed_flush_iff i t b) (nomatch ·)
    · exact formed_iff (requestOf_mgmtRead i t b) (mgmtReadForm_iff b) (malformed_mgmtRead_iff i t b) (nomatch ·)
    · exact formed_iff (requestOf_mgmtWrite i t b) (mgmtWriteForm_iff b) (malformed_mgmtWrite_iff i t b) (nomatch ·)
    · exact formed_iff (requestOf_mgmtCommand i t b) (commandForm_iff b) (malformed_command_iff i t b) (nomatch ·)
  · exact ⟨fun _ => Or.inl hk, fun _ => requestOf_of_unknown hk⟩

/-! ### The fields of a packet that is not malformed -/

theorem fieldAt_addrOf (b : List Byte) : FieldAt b 0 5 (addrOf b) := fieldAt_slice b 0 5 (by decide)

theorem fieldAt_word32At (b : List Byte) (i : Nat) : FieldAt b i 4 (word32At b i) := fieldAt_slice b i 4 (by decide)

theorem lineOfBytes_word (b : List Byte) (w : WordIx) : (lineOfBytes b)[w] = lineWord b w := by
  fin_cases w <;> rfl

theorem fieldAt_lineOfBytes (b : List Byte) (w : WordIx) : FieldAt b (8 + 8 * w) 8 (lineOfBytes (b.drop 8))[w] := by
  intro k hk
  have h := fieldAt_slice (w := 64) (b.drop 8) (8 * w) 8 (by decide) k hk
  rw [lineOfBytes_word, show lineWord (b.drop 8) w = BitVec.ofNat 64 (leNat (byteSlice (b.drop 8) (8 * w) 8)) from rfl, h]
  simp only [List.getD_eq_getElem?_getD, List.getElem?_drop, Nat.add_assoc]

theorem commandArg_of_absent {b : List Byte} (h : (b.getD 2 0).getLsbD 0 = false) : commandArg b = none :=
  if_neg (Bool.eq_false_iff.1 h)

theorem commandArg_of_present {b : List Byte} (h : (b.getD 2 0).getLsbD 0 = true) :
    commandArg b = some (word32At b 4) := if_pos h

/-! ### Refusals before the request is carried out (R12, R157) -/

/-- The rows that serve a management write. -/
theorem writeRow_mem (a : MgmtAddr) : writeRow a ∈ [Instr.mgmtWrite, .orderModeWrite, .managerWrite, .noticeTargetWrite,
    .mapTableWrite, .rowsPerBankWrite, .channelSettingsWrite, .urgencyThresholdWrite, .trimSettingsWrite,
    .noticeEnableWrite, .temperatureReport] := by
  unfold writeRow
  repeat' split
  all_goals decide

/-- The rows that serve a command. -/
theorem commandRow_mem (n : Nat) : commandRow n ∈ [Instr.init, .hold, .resume, .retain, .wake, .trimLong, .commitMap,
    .copyLiveToShadow, .clearFault, .clearCounters, .functionReset, .unknownCommandCode] := by
  unfold commandRow
  split
  all_goals decide

/-- A row that serves a management packet takes it, and acts on it for a manager stream alone. -/
theorem exec_managed {r : Request} (hr : (∃ a, r = .mgmtRead a) ∨ (∃ a v, r = .mgmtWrite a v) ∨
    ∃ n c v, r = .mgmtCommand n c v) : ∃ act, ∀ s, exec (headRow r) s = .next (s.serveManaged (headRow r) act) := by
  rcases hr with ⟨a, rfl⟩ | ⟨a, v, rfl⟩ | ⟨n, c, v, rfl⟩
  · exact ⟨_, fun _ => rfl⟩
  · have hrow := writeRow_mem a
    show ∃ act, ∀ s, exec (writeRow a) s = .next (s.serveManaged (writeRow a) act)
    generalize writeRow a = row at hrow
    simp only [List.mem_cons, List.not_mem_nil, or_false] at hrow
    rcases hrow with rfl | rfl | rfl | rfl | rfl | rfl | rfl | rfl | rfl | rfl | rfl <;> exact ⟨_, fun _ => rfl⟩
  · have hrow := commandRow_mem n
    show ∃ act, ∀ s, exec (commandRow n) s = .next (s.serveManaged (commandRow n) act)
    generalize commandRow n = row at hrow
    simp only [List.mem_cons, List.not_mem_nil, or_false] at hrow
    rcases hrow with rfl | rfl | rfl | rfl | rfl | rfl | rfl | rfl | rfl | rfl | rfl | rfl <;> exact ⟨_, fun _ => rfl⟩

theorem exec_unknownKind {s : State} {q : QueuedPacket} {rest : List QueuedPacket} (h : HeadIs s q rest .malformed) :
    exec .unknownKind s = .next (answered s q rest (.errorResp .malformed)) := by
  refine congrArg Host.Outcome.next ((serveHead_of_head h rfl _).trans ?_)
  rw [takeHead_eq_taken h.1, answerError_taken]

theorem commandRow_of_unknown {n : Nat} (h : n ∉ [1, 2, 3, 4, 5, 6, 16, 17, 18, 19, 20]) :
    commandRow n = .unknownCommandCode := by
  unfold commandRow
  split
  case h_12 => rfl
  all_goals exact absurd (by decide) h

/-! ### Channel commands (R117) -/

/-- The channel command of a code. -/
def channelCommandOf : Nat → LongCommand
  | 1 => .init
  | 2 => .hold
  | 3 => .resume
  | 4 => .retain
  | 5 => .wake
  | _ => .trimLong

/-- The six channel commands are served alike: the command is judged on its channel, and accepted when it passes. -/
theorem exec_channelCommand {n : Nat} (h1 : 1 ≤ n) (h6 : n ≤ 6) : ∃ accept : QueuedPacket → Chan → State → State,
    ∀ s, exec (commandRow n) s = .next (s.serveCommand (commandRow n) fun q ch _ t =>
      t.channelCommand q ch (channelCommandOf n) (accept q)) := by
  interval_cases n
  · exact ⟨acceptInit, fun _ => rfl⟩
  · exact ⟨acceptHold, fun _ => rfl⟩
  · exact ⟨acceptResume, fun _ => rfl⟩
  · exact ⟨acceptRetain, fun _ => rfl⟩
  · exact ⟨acceptWake, fun _ => rfl⟩
  · exact ⟨acceptTrimLong, fun _ => rfl⟩

theorem chanOf_none {ch : Nat} (h0 : ch ≠ 0) (h1 : ch ≠ 1) : chanOf ch = none := by
  unfold chanOf
  split
  · exact absurd rfl h0
  · exact absurd rfl h1
  · rfl

theorem channelCommand_of_no_channel {s : State} {q : QueuedPacket} {ch : Nat} {command : LongCommand}
    {accept : Chan → State → State} (h0 : ch ≠ 0) (h1 : ch ≠ 1) :
    s.channelCommand q ch command accept = s.answerCode q .badIndex := by
  unfold State.channelCommand
  rw [chanOf_none h0 h1]

theorem judgeCommand_of_busy {x : Channel} {command : LongCommand} (h : x.longCmd ≠ none) :
    x.judgeCommand command = .busy := if_pos (Option.isSome_iff_ne_none.2 h)

theorem judgeCommand_of_badState {x : Channel} {command : LongCommand} (hidle : x.longCmd = none)
    (h : acceptedIn command x.state = false) : x.judgeCommand command = .badState := by
  unfold Channel.judgeCommand
  rw [hidle, if_neg (by decide), if_pos h]

/-- A channel command that is judged anything but OK is answered with its judgment. -/
theorem exec_channelCommand_refused {s : State} {q : QueuedPacket} {rest : List QueuedPacket} {n : Nat} {c : Chan}
    {v : Option Word32} {code : MgmtCode} (hhead : ManagerHead s q rest (.mgmtCommand n c.val v)) (h1 : 1 ≤ n) (h6 : n ≤ 6)
    (hj : (s.chan c).judgeCommand (channelCommandOf n) = code) (hc : code ≠ .ok) :
    exec (commandRow n) s = .next (answered s q rest (.mgmtResp code none)) := by
  obtain ⟨accept, hexec⟩ := exec_channelCommand h1 h6
  rw [hexec, serveCommand_of_manager hhead rfl, channelCommand_of_refused (s := taken s rest) hj hc, answerCode_taken]

/-- Settles O23: the form by kind; then each refusal is the answer of a head that is taken. -/
theorem refusedAtTheTaking : Obligations.RefusedAtTheTaking := by
  refine ⟨fun p b hb => ⟨requestOf_malformed_iff p, fun hform => ?_⟩,
    ⟨fun s q rest h => exec_unknownKind h, fun s q rest r h hr hm => ?_, fun s q rest n c v h hn => ?_⟩,
    fun s q rest n ch v hhead h1 h6 => ⟨fun h0 h1' => ?_, fun c hch => ?_⟩⟩
  · obtain ⟨kind, i, t, _⟩ := p
    subst hb
    refine ⟨fun hk => ?_, fun hk => ?_, fun hk => ?_, fun hk => ?_, fun hk => ?_, fun hk => ?_⟩ <;> (change kind = _ at hk; subst hk)
    · exact ⟨_, requestOf_formed (requestOf_read i t _) (readForm_iff _) (malformed_read_iff i t _) hform,
        fieldAt_addrOf _⟩
    · exact ⟨_, _, requestOf_formed (requestOf_write i t _) (writeForm_iff _) (malformed_write_iff i t _) hform,
        fieldAt_addrOf _, fieldAt_lineOfBytes _⟩
    · exact requestOf_formed (requestOf_flush i t _) beq_iff_eq (malformed_flush_iff i t _) hform
    · exact requestOf_formed (requestOf_mgmtRead i t _) (mgmtReadForm_iff _) (malformed_mgmtRead_iff i t _) hform
    · exact ⟨_, requestOf_formed (requestOf_mgmtWrite i t _) (mgmtWriteForm_iff _) (malformed_mgmtWrite_iff i t _) hform,
        fieldAt_word32At _ 4⟩
    · have hreq := requestOf_formed (requestOf_mgmtCommand i t _) (commandForm_iff _) (malformed_command_iff i t _) hform
      refine ⟨fun h => ?_, fun h => ⟨_, ?_, fieldAt_word32At _ 4⟩⟩
      · exact hreq.trans (by rw [commandArg_of_absent h]; rfl)
      · exact hreq.trans (by rw [commandArg_of_present h]; rfl)
  · obtain ⟨act, hexec⟩ := exec_managed hr
    rw [hexec, serveManaged_of_other h hm rfl]
  · have hrow : commandRow n = .unknownCommandCode := commandRow_of_unknown hn
    refine congrArg Host.Outcome.next ((serveCommand_of_manager h hrow _).trans ?_)
    rw [answerCode_taken]
  · obtain ⟨accept, hexec⟩ := exec_channelCommand h1 h6
    rw [hexec, serveCommand_of_manager hhead rfl, channelCommand_of_no_channel h0 h1', answerCode_taken]
  · subst hch
    refine ⟨fun hbusy => ?_, fun hidle hstate => ?_⟩
    · exact exec_channelCommand_refused hhead h1 h6 (judgeCommand_of_busy hbusy) (by decide)
    · have hnot : acceptedIn (channelCommandOf n) (s.chan c).state = false := by
        rcases hstate with ⟨rfl, h⟩ | ⟨rfl, h⟩ | ⟨rfl, h⟩ | ⟨rfl, h⟩ | ⟨rfl, h⟩ | ⟨rfl, h⟩ <;>
          simpa [acceptedIn, channelCommandOf, and_assoc] using h
      exact exec_channelCommand_refused hhead h1 h6 (judgeCommand_of_badState hidle hnot) (by decide)

end Sys2Proof.Proofs
end

section
/-! The address map: the translation of an address (O24), and the footprint of a region (O25). -/

namespace Sys2Proof.Proofs

-- One proof after the other, in the memory that the check allows.
set_option Elab.async false

open Sys2Proof Sys2Proof.Machine Sys2Proof.Safety Sys2Proof.Laws

/-! ### Granules: a line index is a granule's number and the place in the granule -/

theorem granule_pos (k : Nat) : 0 < 2 ^ k := Nat.two_pow_pos k

theorem div_of_parts {g r : Nat} (a : Nat) (h : r < g) : (a * g + r) / g = a := by
  rw [Nat.mul_comm, Nat.mul_add_div (Nat.zero_lt_of_lt h), Nat.div_eq_of_lt h, Nat.add_zero]

theorem mod_of_parts {g r : Nat} (a : Nat) (h : r < g) : (a * g + r) % g = r := by
  rw [Nat.mul_comm, Nat.mul_add_mod, Nat.mod_eq_of_lt h]

/-- The two parts decide a number. -/
theorem eq_of_parts {g i j : Nat} (hd : i / g = j / g) (hm : i % g = j % g) : i = j := by
  rw [← Nat.div_add_mod i g, ← Nat.div_add_mod j g, hd, hm]

/-! ### The location of a line (R25, R26) -/

/-- The location of a channel line. -/
theorem locate_eq (l : Layout) (rowBase i : Nat) : l.locate rowBase i =
    ⟨(l.channelLine i).1, l.bankOf (l.channelLine i).2, rowBase + l.bankLine (l.channelLine i).2 / 128,
      l.bankLine (l.channelLine i).2 % 128⟩ := rfl

theorem channelLine_one {m : ChannelMode} (hm : m = .ch0 ∨ m = .ch1) (k i : Nat) :
    (Layout.mk m k).channelLine i = (if m = .ch0 then 0 else 1, i) := by
  rcases hm with rfl | rfl <;> rfl

theorem channelLine_split (k i : Nat) : (Layout.mk .split k).channelLine i =
    (if i / 2 ^ k % 2 = 0 then 0 else 1, i / 2 ^ k / 2 * 2 ^ k + i % 2 ^ k) := rfl

/-- Of a line of a split layout: the granule's number on its channel, and the place in the granule. -/
theorem splitLine_parts (k i : Nat) : (i / 2 ^ k / 2 * 2 ^ k + i % 2 ^ k) / 2 ^ k = i / 2 ^ k / 2 ∧
    (i / 2 ^ k / 2 * 2 ^ k + i % 2 ^ k) % 2 ^ k = i % 2 ^ k :=
  ⟨div_of_parts _ (Nat.mod_lt _ (granule_pos k)), mod_of_parts _ (Nat.mod_lt _ (granule_pos k))⟩

theorem bankLine_eq (m : ChannelMode) (k j : Nat) :
    (Layout.mk m k).bankLine j = j / 2 ^ k / 8 * 2 ^ k + j % 2 ^ k := rfl

theorem locate_one {m : ChannelMode} (hm : m = .ch0 ∨ m = .ch1) (k rowBase i : Nat) :
    (Layout.mk m k).locate rowBase i =
      ⟨if m = .ch0 then 0 else 1, ⟨i / 2 ^ k % 8, Nat.mod_lt _ (by decide)⟩,
        rowBase + (i / 2 ^ k / 8 * 2 ^ k + i % 2 ^ k) / 128, (i / 2 ^ k / 8 * 2 ^ k + i % 2 ^ k) % 128⟩ := by
  rw [locate_eq, channelLine_one hm]
  rfl

theorem locate_split (k rowBase i : Nat) : (Layout.mk .split k).locate rowBase i =
    ⟨if i / 2 ^ k % 2 = 0 then 0 else 1, ⟨i / 2 ^ k / 2 % 8, Nat.mod_lt _ (by decide)⟩,
      rowBase + (i / 2 ^ k / 2 / 8 * 2 ^ k + i % 2 ^ k) / 128,
      (i / 2 ^ k / 2 / 8 * 2 ^ k + i % 2 ^ k) % 128⟩ := by
  obtain ⟨hdiv, hmod⟩ := splitLine_parts k i
  rw [locate_eq, channelLine_split, bankLine_eq, hdiv, hmod]
  refine congrArg (fun b => Location.mk _ b _ _) (Fin.ext ?_)
  show (i / 2 ^ k / 2 * 2 ^ k + i % 2 ^ k) / 2 ^ k % 8 = _
  rw [hdiv]

/-- A channel line is decided by its bank and its place in the bank. -/
theorem channelLine_of_bank {l : Layout} {j j' : Nat} (hb : l.bankOf j = l.bankOf j') (hl : l.bankLine j = l.bankLine j') :
    j = j' := by
  obtain ⟨m, k⟩ := l
  have hbank : j / 2 ^ k % 8 = j' / 2 ^ k % 8 := congrArg Fin.val hb
  rw [bankLine_eq, bankLine_eq] at hl
  have hj := Nat.mod_lt j (granule_pos k)
  have hj' := Nat.mod_lt j' (granule_pos k)
  have hhigh : j / 2 ^ k / 8 = j' / 2 ^ k / 8 := by
    rw [← div_of_parts (j / 2 ^ k / 8) hj, hl, div_of_parts _ hj']
  have hlow : j % 2 ^ k = j' % 2 ^ k := by
    rw [← mod_of_parts (j / 2 ^ k / 8) hj, hl, mod_of_parts _ hj']
  exact eq_of_parts (eq_of_parts hhigh hbank) hlow

/-- A line is decided by its channel and its channel line. -/
theorem channelLine_injective {l : Layout} {i j : Nat} (h : l.channelLine i = l.channelLine j) : i = j := by
  obtain ⟨m, k⟩ := l
  cases m with
  | ch0 => exact congrArg Prod.snd h
  | ch1 => exact congrArg Prod.snd h
  | split =>
    rw [channelLine_split, channelLine_split] at h
    have hchan : (if i / 2 ^ k % 2 = 0 then (0 : Chan) else 1) = if j / 2 ^ k % 2 = 0 then 0 else 1 := congrArg Prod.fst h
    have hline : i / 2 ^ k / 2 * 2 ^ k + i % 2 ^ k = j / 2 ^ k / 2 * 2 ^ k + j % 2 ^ k := congrArg Prod.snd h
    obtain ⟨hdi, hmi⟩ := splitLine_parts k i
    obtain ⟨hdj, hmj⟩ := splitLine_parts k j
    have hhalf : i / 2 ^ k / 2 = j / 2 ^ k / 2 := by rw [← hdi, hline, hdj]
    have hlow : i % 2 ^ k = j % 2 ^ k := by rw [← hmi, hline, hmj]
    have hparity : i / 2 ^ k % 2 = j / 2 ^ k % 2 := by
      by_cases hi : i / 2 ^ k % 2 = 0 <;> by_cases hj : j / 2 ^ k % 2 = 0
      · rw [hi, hj]
      · rw [if_pos hi, if_neg hj] at hchan
        exact absurd hchan (by decide)
      · rw [if_neg hi, if_pos hj] at hchan
        exact absurd hchan (by decide)
      · rw [Nat.mod_two_ne_zero.1 hi, Nat.mod_two_ne_zero.1 hj]
    exact eq_of_parts (eq_of_parts hhalf hparity) hlow

theorem locate_injective {l : Layout} {rowBase i j : Nat} (h : l.locate rowBase i = l.locate rowBase j) : i = j := by
  rw [locate_eq, locate_eq] at h
  injection h with hchan hbank hrow hcol
  have hline : l.bankLine (l.channelLine i).2 = l.bankLine (l.channelLine j).2 :=
    eq_of_parts (Nat.add_left_cancel hrow) hcol
  exact channelLine_injective (Prod.ext hchan (channelLine_of_bank hbank hline))

/-- A granule has at most 64 lines, so with rows of 128 column lines it lies in one row of its bank. -/
theorem row_of_next {k r : Nat} (q : Nat) (hk : k ≤ 6) (hr : r + 1 < 2 ^ k) :
    (q * 2 ^ k + (r + 1)) / 128 = (q * 2 ^ k + r) / 128 ∧ (q * 2 ^ k + (r + 1)) % 128 = (q * 2 ^ k + r) % 128 + 1 := by
  interval_cases k <;> omega

theorem parts_of_next {g i : Nat} (h : i % g + 1 < g) : (i + 1) / g = i / g ∧ (i + 1) % g = i % g + 1 := by
  have hi : i + 1 = i / g * g + (i % g + 1) := by
    rw [← Nat.add_assoc, Nat.mul_comm, Nat.div_add_mod]
  constructor
  · rw [hi, div_of_parts _ h]
  · rw [hi, mod_of_parts _ h]

theorem locate_next {l : Layout} {rowBase i : Nat} (hk : l.granuleK ≤ 6) (hi : i % 2 ^ l.granuleK + 1 < 2 ^ l.granuleK) :
    l.locate rowBase (i + 1) = { l.locate rowBase i with col := (l.locate rowBase i).col + 1 } := by
  obtain ⟨m, k⟩ := l
  obtain ⟨hdiv, hmod⟩ := parts_of_next hi
  by_cases hm : m = .split
  · subst hm
    obtain ⟨hrow, hcol⟩ := row_of_next (i / 2 ^ k / 2 / 8) hk hi
    rw [locate_split, locate_split]
    simp only [hdiv, hmod, hrow, hcol]
  · have hone : m = .ch0 ∨ m = .ch1 := by cases m <;> simp at hm ⊢
    obtain ⟨hrow, hcol⟩ := row_of_next (i / 2 ^ k / 8) hk hi
    rw [locate_one hone, locate_one hone]
    simp only [hdiv, hmod, hrow, hcol]

theorem holds_iff (r : Region) (a : HostAddr) : r.holds a = true ↔
    r.valid = true ∧ r.base.toNat ≤ a.toNat ∧ a.toNat ≤ r.limit.toNat := by
  simp only [Region.holds, Bool.and_eq_true, decide_eq_true_eq, BitVec.le_def, and_assoc]

theorem layoutAt_fin (ls : Vector Layout 4) (n : Fin 4) : layoutAt ls n.val = ls[n] := by
  unfold layoutAt tableList
  rw [List.getElem?_eq_getElem (by simp), Option.getD_some]
  rfl

/-- Settles O24: a line's location takes its parts, its granule's number and its place there, and gives them back. -/
theorem translationComputed : Obligations.TranslationComputed := by
  refine ⟨fun k rowBase i => ⟨fun m hm => locate_one hm k rowBase i, locate_split k rowBase i⟩,
    fun l rowBase i j => locate_injective, fun l rowBase i => locate_next, holds_iff, fun m r a n hn => ?_⟩
  unfold MapUnit.locate
  rw [hn, layoutAt_fin]

/-! ### The footprint of a region (R34) -/

theorem footprint_of_no_chunk {ls : Vector Layout 4} {r : Region} {c : Chan}
    (h : (layoutAt ls r.layout).chunksOn r.lines c = 0) : footprint ls r c = none := if_pos h

theorem footprint_of_chunks {ls : Vector Layout 4} {r : Region} {c : Chan}
    (h : (layoutAt ls r.layout).chunksOn r.lines c ≠ 0) : footprint ls r c =
      some (r.rowBase, (layoutAt ls r.layout).lastRow r.rowBase ((layoutAt ls r.layout).chunksOn r.lines c)) := if_neg h

/-- A region that passes BAD_LAYOUT is made of whole granules. -/
theorem lines_of_good {r : Region} (h : r.badLayout = false) : r.lines % 64 = 0 := by
  simp only [Region.badLayout, Bool.or_eq_false_iff, bne_eq_false_iff_eq, decide_eq_false_iff_not] at h
  obtain ⟨⟨⟨hbase, hlimit⟩, -⟩, -⟩ := h
  unfold Region.lines
  omega

/-- The granule of a line is one of the region's. -/
theorem granule_lt {k i n : Nat} (hk : k ≤ 6) (hn : n % 64 = 0) (hi : i < n) : i / 2 ^ k < n / 2 ^ k := by
  interval_cases k <;> omega

/-- The row of a line lies in the footprint of as many chunks as there are up to the line's. -/
theorem row_le_lastRow {k a r chunks : Nat} (rowBase : Nat) (m : ChannelMode) (ha : a < chunks) (hr : r < 2 ^ k) :
    rowBase + (a / 8 * 2 ^ k + r) / 128 ≤ (Layout.mk m k).lastRow rowBase chunks := by
  refine Nat.add_le_add_left (Nat.div_le_div_right ?_) _
  have hchunk : a / 8 * 2 ^ k ≤ (chunks - 1) / 8 * 2 ^ k :=
    Nat.mul_le_mul_right _ (Nat.div_le_div_right (Nat.le_sub_one_of_lt ha))
  show a / 8 * 2 ^ k + r ≤ (chunks - 1) / 8 * 2 ^ k + 2 ^ k - 1
  omega

/-- A line of a region is in a chunk that its layout gives its channel. -/
theorem line_in_chunks {l : Layout} {n i : Nat} (hk : l.granuleK ≤ 6) (hn : n % 64 = 0) (hi : i < n) (rowBase : Nat) :
    l.chunksOn n (l.locate rowBase i).chan ≠ 0 ∧ rowBase ≤ (l.locate rowBase i).row ∧
    (l.locate rowBase i).row ≤ l.lastRow rowBase (l.chunksOn n (l.locate rowBase i).chan) := by
  obtain ⟨m, k⟩ := l
  have hlt : i / 2 ^ k < n / 2 ^ k := granule_lt hk hn hi
  have hlow : i % 2 ^ k < 2 ^ k := Nat.mod_lt _ (granule_pos k)
  have key : ∀ {a chunks : Nat} {loc : Location}, a < chunks → loc.row = rowBase + (a / 8 * 2 ^ k + i % 2 ^ k) / 128 →
      chunks ≠ 0 ∧ rowBase ≤ loc.row ∧ loc.row ≤ (Layout.mk m k).lastRow rowBase chunks := by
    intro a chunks loc ha hrow
    rw [hrow]
    exact ⟨Nat.ne_of_gt (Nat.zero_lt_of_lt ha), Nat.le_add_right _ _, row_le_lastRow rowBase m ha hlow⟩
  cases m with
  | ch0 => exact key hlt (by rw [locate_one (Or.inl rfl)])
  | ch1 => exact key hlt (by rw [locate_one (Or.inr rfl)])
  | split =>
    refine key (a := i / 2 ^ k / 2) ?_ (by rw [locate_split])
    rw [locate_split]
    show i / 2 ^ k / 2 < if (if i / 2 ^ k % 2 = 0 then (0 : Chan) else 1) = 0 then (n / 2 ^ k + 1) / 2 else n / 2 ^ k / 2
    by_cases hp : i / 2 ^ k % 2 = 0
    · rw [if_pos hp, if_pos rfl]
      omega
    · rw [if_neg hp, if_neg (by decide)]
      omega

theorem footprint_le {ls : Vector Layout 4} {r : Region} {c : Chan} {lo hi : Nat} (h : footprint ls r c = some (lo, hi)) :
    lo ≤ hi := by
  by_cases hn : (layoutAt ls r.layout).chunksOn r.lines c = 0
  · rw [footprint_of_no_chunk hn] at h
    cases h
  · rw [footprint_of_chunks hn] at h
    cases h
    exact Nat.le_add_right _ _

/-- Two footprints share a row exactly when they meet. -/
theorem aliasesOn_iff (ls : Vector Layout 4) (r q : Region) (c : Chan) : aliasesOn ls r q c = true ↔
    ∃ row lo hi lo' hi', footprint ls r c = some (lo, hi) ∧ footprint ls q c = some (lo', hi') ∧
      lo ≤ row ∧ row ≤ hi ∧ lo' ≤ row ∧ row ≤ hi' := by
  unfold aliasesOn
  cases hr : footprint ls r c with
  | none => simp
  | some p =>
    cases hq : footprint ls q c with
    | none => simp
    | some p' =>
      obtain ⟨lo, hi⟩ := p
      obtain ⟨lo', hi'⟩ := p'
      have hle : lo ≤ hi := footprint_le hr
      have hle' : lo' ≤ hi' := footprint_le hq
      simp only [Bool.and_eq_true, decide_eq_true_eq, Option.some.injEq, Prod.mk.injEq]
      constructor
      · rintro ⟨h1, h2⟩
        exact ⟨max lo lo', lo, hi, lo', hi', ⟨rfl, rfl⟩, ⟨rfl, rfl⟩, by omega, by omega, by omega, by omega⟩
      · rintro ⟨row, _, _, _, _, ⟨rfl, rfl⟩, ⟨rfl, rfl⟩, h1, h2, h3, h4⟩
        omega

/-- Settles O25: the line's chunk is among the channel's, so its row is at most the last row used. -/
theorem footprintCoversRegion : Obligations.FootprintCoversRegion := by
  refine ⟨fun ls r i hk hgood hi => ?_, fun ls r n g total hn hg htotal c chunks hchunks => ?_, aliasesOn_iff,
    fun t => rfl⟩
  · obtain ⟨hne, hlo, hhi⟩ := line_in_chunks hk (lines_of_good hgood) hi r.rowBase
    exact ⟨_, _, footprint_of_chunks hne, hlo, hhi⟩
  · have hl : layoutAt ls r.layout = ls[n] := by rw [hn, layoutAt_fin]
    have hcount : (layoutAt ls r.layout).chunksOn r.lines c = chunks := by
      rw [hl, hchunks, htotal, hg]
      unfold Layout.chunksOn
      cases ls[n].mode <;> rfl
    refine ⟨fun h => footprint_of_no_chunk (hcount.trans h), fun h => ?_⟩
    rw [footprint_of_chunks (by rw [hcount]; exact h), hcount, hl, hg]
    rfl

end Sys2Proof.Proofs
end

section
/-! The requests at the head of the ingress queue: READ and WRITE refused by the first check that fails (O26), accepted or
left waiting (O27), and FLUSH (O29). -/

namespace Sys2Proof.Proofs

-- One proof after the other, in the memory that the check allows.
set_option Elab.async false

open Sys2Proof Sys2Proof.Machine Sys2Proof.Safety Sys2Proof.Laws

/-! ### Searches, lowest first -/

/-- A search of a list answers its first hit. -/
theorem find_first {α : Type} {l : List α} {p : α → Bool} {k : Nat} {x : α} (hk : l[k]? = some x) (hx : p x = true)
    (hbefore : ∀ j y, j < k → l[j]? = some y → p y = false) : l.find? p = some x := by
  obtain ⟨hlt, rfl⟩ := List.getElem?_eq_some_iff.1 hk
  rw [List.find?_eq_some_iff_getElem]
  refine ⟨hx, k, hlt, rfl, fun j hj => ?_⟩
  rw [hbefore j _ hj (List.getElem?_eq_getElem (hj.trans hlt))]
  rfl

theorem slotIxs_getElem? (k : SlotIx) : slotIxs[k.val]? = some k := by
  unfold slotIxs
  rw [List.getElem?_eq_getElem (by rw [List.length_finRange]; exact k.isLt), List.getElem_finRange]
  rfl

/-- The lowest FREE slot is the one that is taken (R137). -/
theorem freeSlot_of_lowest {r : ReturnUnit} {k : SlotIx} (hk : r.slots[k] = .free)
    (hlow : ∀ j : SlotIx, j < k → r.slots[j] ≠ .free) : r.freeSlot = some k := by
  refine find_first (slotIxs_getElem? k) (beq_iff_eq.2 hk) fun j y hj hy => ?_
  have hjk : j < 48 := hj.trans k.isLt
  have hy' : y = ⟨j, hjk⟩ := Option.some.inj (hy.symm.trans (slotIxs_getElem? ⟨j, hjk⟩))
  subst hy'
  exact beq_eq_false_iff_ne.2 (hlow _ hj)

theorem freeSlot_of_none {r : ReturnUnit} (h : ∀ j : SlotIx, r.slots[j] ≠ .free) : r.freeSlot = none :=
  List.find?_eq_none.2 fun j _ hj => h j (beq_iff_eq.1 hj)

theorem tableList_getElem? {α : Type} {n : Nat} (v : Vector α n) (i : Fin n) : (tableList v)[i.val]? = some v[i] := by
  unfold tableList
  rw [List.getElem?_eq_getElem (by simp)]
  rfl

theorem regionOf_of_live {s : State} {a : HostAddr} {i : Fin 16} (h : LiveRegion s a i) :
    s.map.regionOf a = some s.map.liveRegions[i] := by
  obtain ⟨hi, hbefore⟩ := h
  refine find_first (tableList_getElem? _ i) hi fun j y hj hy => ?_
  have hlt : j < 16 := hj.trans i.isLt
  have hy' : y = s.map.liveRegions[(⟨j, hlt⟩ : Fin 16)] :=
    Option.some.inj (hy.symm.trans (tableList_getElem? s.map.liveRegions ⟨j, hlt⟩))
  subst hy'
  exact hbefore _ hj

theorem regionOf_of_none {s : State} {a : HostAddr} (h : ∀ j : Fin 16, s.map.liveRegions[j].holds a = false) :
    s.map.regionOf a = none := by
  refine List.find?_eq_none.2 fun r hr => ?_
  obtain ⟨j, hj, rfl⟩ := List.getElem_of_mem hr
  have hlt : j < 16 := by
    unfold tableList at hj
    simpa using hj
  have h' := h ⟨j, hlt⟩
  rw [Bool.not_eq_true]
  exact h'

/-! ### The five checks in their order (R27) -/

section Checks

variable {s : State} {st : StreamIx} {a : HostAddr} {w : Bool} {r : Region}

theorem check_malformed : s.check st a true w = .fails .malformed := if_pos rfl

theorem check_unmapped (h : s.map.regionOf a = none) : s.check st a false w = .fails .unmapped := by
  unfold State.check
  rw [h]
  rfl

theorem check_denied (h : s.map.regionOf a = some r) (hd : r.streams.getLsbD st = false) :
    s.check st a false w = .fails .denied := by
  unfold State.check
  rw [h, if_neg Bool.false_ne_true]
  exact if_pos (by rw [hd]; rfl)

theorem check_readOnly (h : s.map.regionOf a = some r) (hd : r.streams.getLsbD st = true) (hw : r.writable = false) :
    s.check st a false true = .fails .readOnly := by
  unfold State.check
  rw [h, if_neg Bool.false_ne_true]
  refine (if_neg (by rw [hd]; decide)).trans (if_pos ?_)
  rw [hw]
  rfl

/-- The last check is the channel's state. -/
theorem check_state (h : s.map.regionOf a = some r) (hd : r.streams.getLsbD st = true) (hw : w = true → r.writable = true) :
    (∀ code, stateCheck (s.chan (s.map.locate r a).chan).state = some code → s.check st a false w = .fails code) ∧
    (stateCheck (s.chan (s.map.locate r a).chan).state = none → s.check st a false w = .passes (s.map.locate r a)) := by
  have hwrite : (w && !r.writable) = false := by
    cases w with
    | false => rfl
    | true => rw [hw rfl]; rfl
  unfold State.check
  rw [h, if_neg Bool.false_ne_true]
  dsimp only
  rw [hd, hwrite, if_neg (by decide), if_neg Bool.false_ne_true]
  exact ⟨fun code hc => by rw [hc], fun hc => by rw [hc]⟩

end Checks

theorem stateCheck_notReady {st : ChanState} (h : st ∈ [ChanState.uninit, .starting]) : stateCheck st = some .notReady := by
  simp only [List.mem_cons, List.not_mem_nil, or_false] at h
  rcases h with rfl | rfl <;> rfl

theorem stateCheck_held {st : ChanState} (h : st ∈ [ChanState.holding, .held]) : stateCheck st = some .channelHeld := by
  simp only [List.mem_cons, List.not_mem_nil, or_false] at h
  rcases h with rfl | rfl <;> rfl

theorem stateCheck_accepts {st : ChanState} (h : Accepts st) : stateCheck st = none := by
  simp only [Accepts, List.mem_cons, List.not_mem_nil, or_false] at h
  rcases h with rfl | rfl | rfl | rfl | rfl <;> rfl

/-! ### The head's request, by the outcome of the checks -/

theorem exec_read_head {s : State} {q : QueuedPacket} {rest : List QueuedPacket} {a : HostAddr}
    (h : HeadIs s q rest (.read a)) : exec .read s = .next (s.serveRead q a) :=
  congrArg Host.Outcome.next (serveHead_of_head h rfl _)

theorem exec_write_head {s : State} {q : QueuedPacket} {rest : List QueuedPacket} {a : HostAddr} {en : BitVec 8} {d : Line}
    (h : HeadIs s q rest (.write a en d)) : exec .write s = .next (s.serveWriteRequest q a en d) :=
  congrArg Host.Outcome.next (serveHead_of_head h rfl _)

theorem exec_read_fails {s : State} {q : QueuedPacket} {rest : List QueuedPacket} {a : HostAddr} {m : Bool} {code : ErrCode}
    (h : HeadIs s q rest (.read a)) (hm : unaligned a = m) (hc : s.check q.packet.stream a m false = .fails code) :
    exec .read s = .next (answered s q rest (.errorResp code)) := by
  subst hm
  rw [exec_read_head h, State.serveRead, hc, takeHead_eq_taken h.1]
  rfl

theorem exec_write_fails {s : State} {q : QueuedPacket} {rest : List QueuedPacket} {a : HostAddr} {en : BitVec 8} {d : Line}
    {m : Bool} {code : ErrCode} (h : HeadIs s q rest (.write a en d)) (hm : (unaligned a || en == 0#8) = m)
    (hc : s.check q.packet.stream a m true = .fails code) :
    exec .write s = .next (answered s q rest (.errorResp code)) := by
  subst hm
  rw [exec_write_head h, State.serveWriteRequest, hc, takeHead_eq_taken h.1]
  rfl

theorem unaligned_of_aligned {a : HostAddr} (h : a.toNat % 64 = 0) : unaligned a = false := by
  simp [unaligned, h]

theorem unaligned_of_ne {a : HostAddr} (h : a.toNat % 64 ≠ 0) : unaligned a = true := bne_iff_ne.2 h

theorem wellFormed_write {a : HostAddr} {en : BitVec 8} (h : a.toNat % 64 = 0) (hen : en ≠ 0) :
    (unaligned a || en == 0#8) = false := by
  rw [unaligned_of_aligned h, Bool.false_or]
  exact beq_eq_false_iff_ne.2 hen

theorem malformed_write {a : HostAddr} {en : BitVec 8} (h : a.toNat % 64 ≠ 0 ∨ en = 0) :
    (unaligned a || en == 0#8) = true := by
  rcases h with h | rfl
  · rw [unaligned_of_ne h]; rfl
  · exact Bool.or_true _

/-- Settles O26: the checks in their order, each reached when those before it pass. -/
theorem requestsRefusedInOrder : Obligations.RequestsRefusedInOrder := by
  intro s q rest a i
  refine ⟨fun h => ⟨fun ha => ?_, fun ha hnone => ?_, fun ha hlive => ⟨fun hd => ?_, fun hd => ?_⟩⟩,
    fun en d h => ⟨fun hm => ?_, fun ha hen hnone => ?_, fun ha hen hlive => ⟨fun hd => ?_, fun hd => ⟨fun hw => ?_, fun hw => ?_⟩⟩⟩⟩
  · exact exec_read_fails h (unaligned_of_ne ha) check_malformed
  · exact exec_read_fails h (unaligned_of_aligned ha) (check_unmapped (regionOf_of_none hnone))
  · exact exec_read_fails h (unaligned_of_aligned ha) (check_denied (regionOf_of_live hlive) hd)
  · obtain ⟨hfails, -⟩ := check_state (w := false) (regionOf_of_live hlive) hd nofun
    exact ⟨fun hs => exec_read_fails h (unaligned_of_aligned ha) (hfails _ (stateCheck_notReady hs)),
      fun hs => exec_read_fails h (unaligned_of_aligned ha) (hfails _ (stateCheck_held hs))⟩
  · exact exec_write_fails h (malformed_write hm) check_malformed
  · exact exec_write_fails h (wellFormed_write ha hen) (check_unmapped (regionOf_of_none hnone))
  · exact exec_write_fails h (wellFormed_write ha hen) (check_denied (regionOf_of_live hlive) hd)
  · exact exec_write_fails h (wellFormed_write ha hen) (check_readOnly (regionOf_of_live hlive) hd hw)
  · obtain ⟨hfails, -⟩ := check_state (w := true) (regionOf_of_live hlive) hd fun _ => hw
    exact ⟨fun hs => exec_write_fails h (wellFormed_write ha hen) (hfails _ (stateCheck_notReady hs)),
      fun hs => exec_write_fails h (wellFormed_write ha hen) (hfails _ (stateCheck_held hs))⟩

/-! ### Acceptance, and waiting (R29, R30) -/

theorem exec_read_accepted {s : State} {q : QueuedPacket} {rest : List QueuedPacket} {a : HostAddr} {loc : Location}
    {k : SlotIx} (h : HeadIs s q rest (.read a)) (hc : s.check q.packet.stream a (unaligned a) false = .passes loc)
    (hk : s.ret.freeSlot = some k) (hroom : (s.chan loc.chan).pool.length < 32) :
    exec .read s = .next (((taken s rest).setSlot k (.reserved (readRecord q s.map.epoch loc))).placeEntry loc.chan
      (poolEntry q s.map.epoch loc (.read k))) := by
  rw [exec_read_head h, State.serveRead, hc]
  dsimp only
  rw [hk]
  dsimp only
  rw [if_pos (show s.poolHasRoom loc.chan = true from decide_eq_true hroom), State.acceptRead, takeHead_eq_taken h.1]

theorem poolHasRoom_of_full {s : State} {c : Chan} (h : 32 ≤ (s.chan c).pool.length) : s.poolHasRoom c = false :=
  decide_eq_false (Nat.not_lt.2 h)

theorem exec_read_waits {s : State} {q : QueuedPacket} {rest : List QueuedPacket} {a : HostAddr} {loc : Location}
    (h : HeadIs s q rest (.read a)) (hc : s.check q.packet.stream a (unaligned a) false = .passes loc)
    (hmissing : s.ret.freeSlot = none ∨ 32 ≤ (s.chan loc.chan).pool.length) : exec .read s = .next s := by
  rw [exec_read_head h]
  refine congrArg Host.Outcome.next ((serveRead_waits h.1 a).1 ?_)
  unfold State.readWaits
  rw [hc]
  rcases hmissing with hnone | hfull
  · simp [hnone]
  · simp [poolHasRoom_of_full hfull]

theorem exec_write_accepted {s : State} {q : QueuedPacket} {rest : List QueuedPacket} {a : HostAddr} {en : BitVec 8}
    {d : Line} {loc : Location} (h : HeadIs s q rest (.write a en d))
    (hc : s.check q.packet.stream a (unaligned a || en == 0#8) true = .passes loc)
    (hroom : (s.chan loc.chan).pool.length < 32) :
    exec .write s = .next ((taken s rest).placeEntry loc.chan (poolEntry q s.map.epoch loc (.write d en))) := by
  rw [exec_write_head h, State.serveWriteRequest, hc]
  dsimp only
  rw [if_pos (show s.poolHasRoom loc.chan = true from decide_eq_true hroom), State.acceptWrite, takeHead_eq_taken h.1]

theorem exec_write_waits {s : State} {q : QueuedPacket} {rest : List QueuedPacket} {a : HostAddr} {en : BitVec 8}
    {d : Line} {loc : Location} (h : HeadIs s q rest (.write a en d))
    (hc : s.check q.packet.stream a (unaligned a || en == 0#8) true = .passes loc)
    (hfull : 32 ≤ (s.chan loc.chan).pool.length) : exec .write s = .next s := by
  rw [exec_write_head h]
  refine congrArg Host.Outcome.next ((serveWriteRequest_waits h.1 a en d).1 ?_)
  unfold State.writeWaits
  rw [hc]
  simp [poolHasRoom_of_full hfull]

/-- Settles O27: the checks pass, and what decides then is the lowest FREE slot and the room in the pool. -/
theorem requestsAcceptedOrWait : Obligations.RequestsAcceptedOrWait := by
  intro s q rest a i loc ha hlive hd hloc hstate
  subst hloc
  have hpass : ∀ w, (w = true → s.map.liveRegions[i].writable = true) →
      s.check q.packet.stream a false w = .passes (s.map.locate s.map.liveRegions[i] a) := fun w hw => by
    obtain ⟨-, hpasses⟩ := check_state (w := w) (regionOf_of_live hlive) hd hw
    exact hpasses (stateCheck_accepts hstate)
  refine ⟨fun h => ?_, fun en d h hen hw => ?_⟩
  · have hc : s.check q.packet.stream a (unaligned a) false = .passes (s.map.locate s.map.liveRegions[i] a) := by
      rw [unaligned_of_aligned ha]
      exact hpass false nofun
    exact ⟨fun k hk hlow hroom => exec_read_accepted h hc (freeSlot_of_lowest hk hlow) hroom,
      fun hmissing => exec_read_waits h hc (hmissing.imp_left freeSlot_of_none)⟩
  · have hc : s.check q.packet.stream a (unaligned a || en == 0#8) true =
        .passes (s.map.locate s.map.liveRegions[i] a) := by
      rw [wellFormed_write ha hen]
      exact hpass true fun _ => hw
    exact ⟨fun hroom => exec_write_accepted h hc hroom, fun hfull => exec_write_waits h hc hfull⟩

/-! ### FLUSH (R14) -/

theorem exec_flush_head {s : State} {q : QueuedPacket} {rest : List QueuedPacket} (h : HeadIs s q rest .flush) :
    exec .flush s = .next (s.serveFlush q) :=
  congrArg Host.Outcome.next (serveHead_of_head h rfl _)

theorem isWriteOf_eq (st : StreamIx) : PoolEntry.isWriteOf st = fun e => e.isWrite && e.stream == st := by
  funext e
  unfold PoolEntry.isWriteOf PoolEntry.isWrite
  cases e.kind <;> rfl

theorem unissuedWrites_eq (s : State) (st : StreamIx) : s.unissuedWrites st =
    ((s.chan 0).pool ++ (s.chan 1).pool).countP fun e => e.isWrite && e.stream == st := by
  unfold State.unissuedWrites
  rw [isWriteOf_eq, List.countP_append]

/-- Settles O29: the count of the stream's writes in the two pools decides, then the room in the flush list. -/
theorem flushCountsWaitingWrites : Obligations.FlushCountsWaitingWrites := by
  intro s q rest n h hn
  rw [← unissuedWrites_eq] at hn
  subst hn
  rw [exec_flush_head h]
  unfold State.serveFlush
  dsimp only
  rw [takeHead_eq_taken h.1]
  refine ⟨fun h0 => ?_, fun hpos hroom => ?_, fun hpos hfull => ?_⟩
  · rw [if_pos h0, answer_taken]
  · rw [if_neg (Nat.ne_of_gt hpos), if_pos (show _ < Config.flushRecords from hroom)]
    rfl
  · rw [if_neg (Nat.ne_of_gt hpos), if_neg (show ¬_ < Config.flushRecords from Nat.not_lt.2 hfull), answerError_taken]

end Sys2Proof.Proofs
end

section
/-! Management: MGMT_READ (O30), and the writes of the stream table (O33). -/

namespace Sys2Proof.Proofs

-- One proof after the other, in the memory that the check allows.
set_option Elab.async false

open Sys2Proof Sys2Proof.Machine Sys2Proof.Safety Sys2Proof.Laws

/-! ### MGMT_READ (R151, R152) -/

theorem entryFields_of_no_table {s : State} {t e : Nat} (h : 14 ≤ t) : entryFields s t e = [] := by
  unfold entryFields
  split
  case h_15 => rfl
  all_goals exact absurd h (by decide)

theorem readAnswer_some (v : Nat) : readAnswer (some v) = .mgmtResp .ok (some (BitVec.ofNat 32 v)) := rfl

/-- Settles O30: the answer is what the address reads once the head is taken, which is the field listed for its entry. -/
theorem managementReads : Obligations.ManagementReads := by
  intro s q rest a h
  refine ⟨fun v hv => exec_mgmtRead_of_listed h hv, fun hlen => exec_mgmtRead_of_unlisted h hlen, fun v hv => ?_,
    fun hv => ?_, fun ht => exec_mgmtRead_of_unlisted h ?_⟩
  · rw [exec_mgmtRead_of_manager h, hv, readAnswer_some]
  · rw [exec_mgmtRead_of_manager h, hv]
    rfl
  · rw [entryFields_of_no_table ht]
    exact Nat.zero_le _

/-! ### The form of a write to the stream table (R4) -/

theorem streamOf_val (i : StreamIx) : streamOf i.val = i := Fin.ext (Nat.mod_eq_of_lt i.isLt)

theorem streamWriteForm_badIndex {e k : Nat} (h : 3 < e) (v : Word32) : streamWriteForm ⟨1, e, k⟩ v = .badIndex :=
  if_pos h

theorem streamWriteForm_badValue (i : StreamIx) (k : Nat) {v : Word32} (h : 1 < v.toNat) :
    streamWriteForm ⟨1, i.val, k⟩ v = .badValue :=
  (if_neg (Nat.not_lt.2 (Nat.le_of_lt_succ i.isLt))).trans (if_pos h)

theorem streamWriteForm_ok (i : StreamIx) (k : Nat) {v : Word32} (h : v.toNat ≤ 1) :
    streamWriteForm ⟨1, i.val, k⟩ v = .ok :=
  (if_neg (Nat.not_lt.2 (Nat.le_of_lt_succ i.isLt))).trans (if_neg (Nat.not_lt.2 h))

theorem judgeOrderMode_of_form {q : QueuedPacket} {a : MgmtAddr} {v : Word32} {s : State} {code : MgmtCode}
    (h : streamWriteForm a v = code) (hc : code ≠ .ok) : judgeOrderMode q a v s = code := by
  subst h
  exact if_pos hc

theorem judgeManager_of_form {q : QueuedPacket} {a : MgmtAddr} {v : Word32} {s : State} {code : MgmtCode}
    (h : streamWriteForm a v = code) (hc : code ≠ .ok) : judgeManager q a v s = code := by
  subst h
  exact if_pos hc

theorem judgeNoticeTarget_of_form {q : QueuedPacket} {a : MgmtAddr} {v : Word32} {s : State} {code : MgmtCode}
    (h : streamWriteForm a v = code) (hc : code ≠ .ok) : judgeNoticeTarget q a v s = code := by
  subst h
  exact if_pos hc

/-- The three rows of the stream table refuse a wrong entry or value alike. -/
theorem exec_streamWrite_of_form {s : State} {q : QueuedPacket} {rest : List QueuedPacket} {e : Nat} {v : Word32}
    {code : MgmtCode} (hform : ∀ k, streamWriteForm ⟨1, e, k⟩ v = code) (hc : code ≠ .ok) :
    (ManagerHead s q rest (.mgmtWrite ⟨1, e, 0⟩ v) →
      exec .orderModeWrite s = .next (answered s q rest (.mgmtResp code none))) ∧
    (ManagerHead s q rest (.mgmtWrite ⟨1, e, 1⟩ v) →
      exec .managerWrite s = .next (answered s q rest (.mgmtResp code none))) ∧
    (ManagerHead s q rest (.mgmtWrite ⟨1, e, 2⟩ v) →
      exec .noticeTargetWrite s = .next (answered s q rest (.mgmtResp code none))) :=
  ⟨fun h => congrArg Host.Outcome.next (serveWrite_of_refused h rfl (judgeOrderMode_of_form (hform 0) hc) hc),
    fun h => congrArg Host.Outcome.next (serveWrite_of_refused h rfl (judgeManager_of_form (hform 1) hc) hc),
    fun h => congrArg Host.Outcome.next (serveWrite_of_refused h rfl (judgeNoticeTarget_of_form (hform 2) hc) hc)⟩

/-! ### order_mode (R4, R143) -/

/-- Another request of the stream than the writer's own is outstanding. -/
theorem othersOutstanding_iff (q : QueuedPacket) (i : StreamIx) (tags : List (StreamIx × TagIx)) :
    (tags.any fun t => t.1 == i && t != (q.packet.stream, q.packet.tag)) = true ↔
      ∃ t ∈ tags, t.1 = i ∧ t ≠ (q.packet.stream, q.packet.tag) := by
  simp only [List.any_eq_true, Bool.and_eq_true, beq_iff_eq, bne_iff_ne]

theorem judgeOrderMode_eq (q : QueuedPacket) (i : StreamIx) {v : Word32} (hv : v.toNat ≤ 1) (s : State) :
    judgeOrderMode q ⟨1, i.val, 0⟩ v s = if (s.stream i).orderMode ≠ orderModeOf v ∧
      (s.intake.tags.any fun t => t.1 == i && t != (q.packet.stream, q.packet.tag)) = true then .busy else .ok := by
  unfold judgeOrderMode
  rw [streamWriteForm_ok i 0 hv]
  dsimp only
  rw [streamOf_val, if_neg (not_not_intro rfl)]

/-- A write of order_mode: the entry, and with a change to STRICT the next to send. -/
theorem carryOrderMode_eq (q : QueuedPacket) (i : StreamIx) (v : Word32) (s : State) :
    carryOrderMode q ⟨1, i.val, 0⟩ v s =
      if (s.stream i).orderMode ≠ orderModeOf v ∧ orderModeOf v = .strict then
        withNext (withStream s i { s.stream i with orderMode := orderModeOf v }) i
          (if q.packet.stream = i then q.order else (s.stream i).nextOrder)
      else withStream s i { s.stream i with orderMode := orderModeOf v } := by
  simp only [carryOrderMode, streamOf_val]
  rfl

theorem carryOrderMode_same {q : QueuedPacket} {i : StreamIx} {v : Word32} {s : State}
    (h : (s.stream i).orderMode = orderModeOf v) : carryOrderMode q ⟨1, i.val, 0⟩ v s = s := by
  rw [carryOrderMode_eq, if_neg fun hc => hc.1 h, ← h]
  exact modStream_self (s := s) (i := i) (f := id) rfl

theorem carryOrderMode_relaxed (q : QueuedPacket) (i : StreamIx) (s : State) :
    carryOrderMode q ⟨1, i.val, 0⟩ 0 s = withStream s i { s.stream i with orderMode := .relaxed } := by
  rw [carryOrderMode_eq]
  exact if_neg fun hc => nomatch hc.2

theorem carryOrderMode_strict {q : QueuedPacket} {i : StreamIx} {s : State} (h : (s.stream i).orderMode ≠ .strict) :
    carryOrderMode q ⟨1, i.val, 0⟩ 1 s = withNext (withStream s i { s.stream i with orderMode := .strict }) i
      (if q.packet.stream = i then q.order else (s.stream i).nextOrder) := by
  rw [carryOrderMode_eq]
  exact if_pos ⟨h, rfl⟩

theorem exec_orderModeWrite_ok {s : State} {q : QueuedPacket} {rest : List QueuedPacket} {i : StreamIx} {v : Word32}
    (h : ManagerHead s q rest (.mgmtWrite ⟨1, i.val, 0⟩ v)) (hv : v.toNat ≤ 1)
    (hfree : (s.stream i).orderMode = orderModeOf v ∨
      ∀ t ∈ s.intake.tags, t.1 = i → t = (q.packet.stream, q.packet.tag)) :
    exec .orderModeWrite s = .next (responded (carryOrderMode q ⟨1, i.val, 0⟩ v (taken s rest)) q (.mgmtResp .ok none)) := by
  refine congrArg Host.Outcome.next (serveWrite_of_ok h rfl ?_)
  rw [judgeOrderMode_eq q i hv]
  refine if_neg fun ⟨hne, hothers⟩ => ?_
  obtain ⟨t, ht, hti, htq⟩ := (othersOutstanding_iff q i _).1 hothers
  rcases hfree with hsame | hown
  · exact hne hsame
  · exact htq (hown t ht hti)

/-! ### manager and notice_target (R2, R4) -/

theorem exec_managerWrite_ok {s : State} {q : QueuedPacket} {rest : List QueuedPacket} {i : StreamIx} {v : Word32}
    (h : ManagerHead s q rest (.mgmtWrite ⟨1, i.val, 1⟩ v)) (hv : v.toNat ≤ 1)
    (hleft : v = 0 → ∃ j, j ≠ i ∧ (s.stream j).manager = true) :
    exec .managerWrite s = .next (answered (withStream s i { s.stream i with manager := v != 0 }) q rest (.mgmtResp .ok none)) := by
  have hok : judgeManager q ⟨1, i.val, 1⟩ v (taken s rest) = .ok := by
    rw [judgeManager_ok_iff]
    refine ⟨streamWriteForm_ok i 1 hv, fun ⟨hv0, _, hnone⟩ => ?_⟩
    obtain ⟨j, hj, hm⟩ := hleft hv0
    have hnot := List.any_eq_false.1 hnone j (List.mem_finRange j)
    rw [show streamOf (⟨1, i.val, 1⟩ : MgmtAddr).entry = i from streamOf_val i] at hnot
    exact hnot (by rw [taken_stream, hm, bne_iff_ne.2 hj]; rfl)
  refine congrArg Host.Outcome.next ((serveWrite_of_ok h rfl hok).trans ?_)
  unfold carryManager
  rw [show streamOf (⟨1, i.val, 1⟩ : MgmtAddr).entry = i from streamOf_val i]
  rfl

theorem judgeManager_last {q : QueuedPacket} {i : StreamIx} {s : State} (hm : (s.stream i).manager = true)
    (hnone : ∀ j, j ≠ i → (s.stream j).manager = false) : judgeManager q ⟨1, i.val, 1⟩ 0 s = .badValue := by
  unfold judgeManager
  rw [streamWriteForm_ok i 1 (by decide)]
  dsimp only
  rw [streamOf_val, if_neg (not_not_intro rfl)]
  refine if_pos ⟨rfl, hm, List.any_eq_false.2 fun j _ hj => ?_⟩
  simp only [Bool.and_eq_true, bne_iff_ne] at hj
  rw [hnone j hj.1] at hj
  exact Bool.false_ne_true hj.2

theorem judgeNoticeTarget_eq (q : QueuedPacket) (i : StreamIx) {v : Word32} (hv : v.toNat ≤ 1) (s : State) :
    judgeNoticeTarget q ⟨1, i.val, 2⟩ v s = if v = 0 ∧ (s.stream i).noticeTarget = true then .badValue else .ok := by
  unfold judgeNoticeTarget
  rw [streamWriteForm_ok i 2 hv, if_neg (not_not_intro rfl), streamOf_val]

theorem exec_noticeTargetWrite_zero {s : State} {q : QueuedPacket} {rest : List QueuedPacket} {i : StreamIx}
    (h : ManagerHead s q rest (.mgmtWrite ⟨1, i.val, 2⟩ 0)) (hi : (s.stream i).noticeTarget = false) :
    exec .noticeTargetWrite s = .next (answered s q rest (.mgmtResp .ok none)) := by
  refine congrArg Host.Outcome.next ((serveWrite_of_ok h rfl ?_).trans rfl)
  rw [judgeNoticeTarget_eq q i (by decide)]
  refine if_neg fun hc => ?_
  rw [taken_stream, hi] at hc
  exact Bool.false_ne_true hc.2

theorem exec_noticeTargetWrite_one {s : State} {q : QueuedPacket} {rest : List QueuedPacket} {i : StreamIx}
    (h : ManagerHead s q rest (.mgmtWrite ⟨1, i.val, 2⟩ 1)) :
    exec .noticeTargetWrite s =
      .next (answered { s with intake := s.intake.retarget i } q rest (.mgmtResp .ok none)) := by
  have hok : judgeNoticeTarget q ⟨1, i.val, 2⟩ 1 (taken s rest) = .ok := by
    rw [judgeNoticeTarget_eq q i (by decide)]
    exact if_neg fun hc => absurd hc.1 (by decide)
  refine congrArg Host.Outcome.next ((serveWrite_of_ok h rfl hok).trans ?_)
  unfold carryNoticeTarget
  rw [show streamOf (⟨1, i.val, 2⟩ : MgmtAddr).entry = i from streamOf_val i, if_neg (by decide)]
  rfl

/-- Settles O33: each row by its judgment, then by what it stores. -/
theorem streamTableWrites : Obligations.StreamTableWrites := by
  intro s q rest i v
  refine ⟨fun h => ⟨fun hv => ?_, fun hv hne hother => ?_, fun hv hsame => ?_, fun hown hne => ⟨fun hv => ?_, fun hv => ?_⟩⟩,
    fun h => ⟨fun hbad => ?_, fun hv => ?_, fun j hv hj hm => ?_⟩,
    fun h => ⟨fun hbad => ?_, fun hv hi => ?_, fun hv => ?_⟩,
    fun e he => exec_streamWrite_of_form (fun k => streamWriteForm_badIndex he v) (by decide)⟩
  · obtain ⟨hrefused, -, -⟩ := exec_streamWrite_of_form (s := s) (q := q) (rest := rest)
      (fun k => streamWriteForm_badValue i k hv) (by decide)
    exact hrefused h
  · refine congrArg Host.Outcome.next (serveWrite_of_refused (code := .busy) h rfl ?_ (by decide))
    rw [judgeOrderMode_eq q i hv]
    exact if_pos ⟨hne, (othersOutstanding_iff q i _).2 hother⟩
  · rw [exec_orderModeWrite_ok h hv (Or.inl hsame), carryOrderMode_same (s := taken s rest) hsame]
    rfl
  · subst hv
    rw [exec_orderModeWrite_ok h (by decide) (Or.inr hown), carryOrderMode_relaxed]
    rfl
  · subst hv
    rw [exec_orderModeWrite_ok h (by decide) (Or.inr hown), carryOrderMode_strict (s := taken s rest) hne]
    rfl
  · rcases hbad with hv | ⟨rfl, hm, hnone⟩
    · obtain ⟨-, hrefused, -⟩ := exec_streamWrite_of_form (s := s) (q := q) (rest := rest)
        (fun k => streamWriteForm_badValue i k hv) (by decide)
      exact hrefused h
    · exact congrArg Host.Outcome.next
        (serveWrite_of_refused h rfl (judgeManager_last (s := taken s rest) hm hnone) (by decide))
  · subst hv
    exact exec_managerWrite_ok h (by decide) fun h0 => absurd h0 (by decide)
  · subst hv
    exact exec_managerWrite_ok h (by decide) fun _ => ⟨j, hj, hm⟩
  · rcases hbad with hv | ⟨rfl, hi⟩
    · obtain ⟨-, -, hrefused⟩ := exec_streamWrite_of_form (s := s) (q := q) (rest := rest)
        (fun k => streamWriteForm_badValue i k hv) (by decide)
      exact hrefused h
    · refine congrArg Host.Outcome.next (serveWrite_of_refused (code := .badValue) h rfl ?_ (by decide))
      rw [judgeNoticeTarget_eq q i (by decide)]
      exact if_pos ⟨rfl, hi⟩
  · subst hv
    exact exec_noticeTargetWrite_zero h hi
  · subst hv
    exact ⟨_, exec_noticeTargetWrite_one h, retarget_streams s.intake i, rfl⟩

end Sys2Proof.Proofs
end

section
/-! Management: the writes of the map tables, the channel settings and the row count (O34). -/

namespace Sys2Proof.Proofs

-- One proof after the other, in the memory that the check allows.
set_option Elab.async false

open Sys2Proof Sys2Proof.Machine Sys2Proof.Safety Sys2Proof.Laws

/-! ### Fields as a list of values: a write replaces one of them -/

/-- A table of fields, given by cases, that reads as a list of values. -/
theorem fields_eq_list {f : Nat → Option Nat} {l : List Nat} {n : Nat} (hl : l.length = n)
    (h : ∀ k, k < n → f k = l[k]?) (hn : ∀ k, n ≤ k → f k = none) (k : Nat) : f k = l[k]? := by
  by_cases hk : k < n
  · exact h k hk
  · rw [hn k (Nat.not_lt.1 hk), List.getElem?_eq_none (by omega)]

/-- Where a write replaces one value of the list, it reads back, and the other fields stay. -/
theorem reads_back_of_set {f g : Nat → Option Nat} {l l' : List Nat} {i v : Nat} (hf : ∀ k, f k = l[k]?)
    (hg : ∀ k, g k = l'[k]?) (hset : l' = l.set i v) (hi : i < l.length) : g i = some v ∧ ∀ k, k ≠ i → g k = f k := by
  subst hset
  refine ⟨?_, fun k hk => ?_⟩
  · rw [hg, List.getElem?_set_self hi]
  · rw [hg, hf, List.getElem?_set_ne (Ne.symm hk)]

/-- The 23 settings of a channel. -/
def settingNats (x : Settings) : List Nat :=
  [x.openToAccess, x.openMin, x.closeTime, x.openCycle, x.openSpacing, x.windowTime, x.burstTime, x.readReturn,
    x.writeRecovery, x.writeToRead, x.readToWrite, x.refreshTime, x.refreshInterval, x.trimShort, x.trimLong,
    x.dozeExit, x.retainExitShort, x.retainExitLong, x.settleTime, x.rowHold, x.idleTimeout, x.powerupWait,
    x.rowsPerBank]

theorem setting_fields (x : Settings) : ∀ k, x.field k = (settingNats x)[k]? := by
  refine fields_eq_list (n := 23) rfl (fun k hk => ?_) fun k hk => ?_
  · interval_cases k <;> rfl
  · unfold Settings.field
    split <;> first | rfl | omega

theorem settingNats_withField (x : Settings) {i : Nat} (h : i ≤ 22) (v : Nat) :
    settingNats (x.withField i v) = (settingNats x).set i v := by
  interval_cases i <;> rfl

/-- A setting that is stored reads back, and every other one stays. -/
theorem setting_withField (x : Settings) {i : Nat} (h : i ≤ 22) (v : Nat) :
    (x.withField i v).field i = some v ∧ ∀ k, k ≠ i → (x.withField i v).field k = x.field k :=
  reads_back_of_set (setting_fields x) (setting_fields _) (settingNats_withField x h v) (Nat.lt_succ_of_le h)

/-- The fields of a layout entry. -/
def layoutNats (l : Layout) : List Nat := [match l.mode with | .ch0 => 0 | .ch1 => 1 | .split => 2, l.granuleK]

theorem layout_fields (l : Layout) : ∀ k, l.field k = (layoutNats l)[k]? := by
  refine fields_eq_list (n := 2) rfl (fun k hk => ?_) fun k hk => ?_
  · interval_cases k <;> rfl
  · unfold Layout.field
    split <;> first | rfl | omega

theorem layoutNats_withField (l : Layout) {i v : Nat} (h : i ≤ 1) (hv : FieldRange layoutRanges i v) :
    layoutNats (l.withField i v) = (layoutNats l).set i v := by
  interval_cases i
  · have hv2 : v ≤ 2 := hv.2
    interval_cases v <;> rfl
  · rfl

theorem layout_withField (l : Layout) {i v : Nat} (h : i ≤ 1) (hv : FieldRange layoutRanges i v) :
    (l.withField i v).field i = some v ∧ ∀ k, k ≠ i → (l.withField i v).field k = l.field k :=
  reads_back_of_set (layout_fields l) (layout_fields _) (layoutNats_withField l h hv) (Nat.lt_succ_of_le h)

/-- The fields of a region entry. -/
def regionNats (r : Region) : List Nat :=
  [yesNo r.valid, r.base.toNat % 4294967296, r.base.toNat / 4294967296, r.limit.toNat % 4294967296,
    r.limit.toNat / 4294967296, r.layout, r.rowBase, r.streams.toNat, yesNo r.writable]

theorem region_fields (r : Region) : ∀ k, r.field k = (regionNats r)[k]? := by
  refine fields_eq_list (n := 9) rfl (fun k hk => ?_) fun k hk => ?_
  · interval_cases k <;> rfl
  · unfold Region.field
    split <;> first | rfl | omega

theorem yesNo_of_le {v : Nat} (h : v ≤ 1) : yesNo (v == 1) = v := by
  interval_cases v <;> rfl

/-- A low word put into an address: it reads back, and the high byte stays. -/
theorem lowWord_parts (a : HostAddr) {v : Nat} (h : v ≤ 0xFFFFFFFF) :
    (BitVec.ofNat 40 (a.toNat / 4294967296 * 4294967296 + v)).toNat % 4294967296 = v ∧
    (BitVec.ofNat 40 (a.toNat / 4294967296 * 4294967296 + v)).toNat / 4294967296 = a.toNat / 4294967296 := by
  have ha := a.isLt
  have hlt : a.toNat / 4294967296 * 4294967296 + v < 2 ^ 40 := by omega
  rw [BitVec.toNat_ofNat, Nat.mod_eq_of_lt hlt]
  omega

/-- A high byte put into an address: it reads back, and the low word stays. -/
theorem highByte_parts (a : HostAddr) {v : Nat} (h : v ≤ 255) :
    (BitVec.ofNat 40 (v * 4294967296 + a.toNat % 4294967296)).toNat % 4294967296 = a.toNat % 4294967296 ∧
    (BitVec.ofNat 40 (v * 4294967296 + a.toNat % 4294967296)).toNat / 4294967296 = v := by
  have hlt : v * 4294967296 + a.toNat % 4294967296 < 2 ^ 40 := by omega
  rw [BitVec.toNat_ofNat, Nat.mod_eq_of_lt hlt]
  omega

theorem regionNats_withField (r : Region) {i v : Nat} (h : i ≤ 8) (hv : FieldRange regionRanges i v) :
    regionNats (r.withField i v) = (regionNats r).set i v := by
  have hle := hv.2
  interval_cases i
  · simp only [regionNats, Region.withField, yesNo_of_le hle, List.set_cons_zero]
  · obtain ⟨hlow, hhigh⟩ := lowWord_parts r.base hle
    simp only [regionNats, Region.withField, hlow, hhigh, List.set_cons_succ, List.set_cons_zero]
  · obtain ⟨hlow, hhigh⟩ := highByte_parts r.base hle
    simp only [regionNats, Region.withField, hlow, hhigh, List.set_cons_succ, List.set_cons_zero]
  · obtain ⟨hlow, hhigh⟩ := lowWord_parts r.limit hle
    simp only [regionNats, Region.withField, hlow, hhigh, List.set_cons_succ, List.set_cons_zero]
  · obtain ⟨hlow, hhigh⟩ := highByte_parts r.limit hle
    simp only [regionNats, Region.withField, hlow, hhigh, List.set_cons_succ, List.set_cons_zero]
  · rfl
  · rfl
  · have hstreams : (BitVec.ofNat 4 v).toNat = v := by
      rw [BitVec.toNat_ofNat]
      exact Nat.mod_eq_of_lt (Nat.lt_succ_of_le hle)
    simp only [regionNats, Region.withField, hstreams, List.set_cons_succ, List.set_cons_zero]
  · simp only [regionNats, Region.withField, yesNo_of_le hle, List.set_cons_succ, List.set_cons_zero]

theorem region_withField (r : Region) {i v : Nat} (h : i ≤ 8) (hv : FieldRange regionRanges i v) :
    (r.withField i v).field i = some v ∧ ∀ k, k ≠ i → (r.withField i v).field k = r.field k :=
  reads_back_of_set (region_fields r) (region_fields _) (regionNats_withField r h hv) (Nat.lt_succ_of_le h)

/-! ### A table with one entry replaced -/

/-- A field of an entry of a table. -/
def tableField {α : Type} {n : Nat} (t : Vector α n) (field : α → Nat → Option Nat) (e k : Nat) : Option Nat :=
  if h : e < n then field t[e] k else none

/-- With one field of one entry replaced, it reads back, and every other field of the table stays. -/
theorem tableField_set {α : Type} {n : Nat} {t : Vector α n} {field : α → Nat → Option Nat} {e i v : Nat} (h : e < n)
    {x : α} (hback : field x i = some v ∧ ∀ k, k ≠ i → field x k = field t[e] k) :
    tableField (t.set e x) field e i = some v ∧
    ∀ e' k, ¬(e' = e ∧ k = i) → tableField (t.set e x) field e' k = tableField t field e' k := by
  obtain ⟨hsame, hother⟩ := hback
  unfold tableField
  refine ⟨?_, fun e' k hne => ?_⟩
  · rw [dif_pos h, Vector.getElem_set_self, hsame]
  · by_cases he' : e' < n
    · rw [dif_pos he', dif_pos he']
      by_cases he : e = e'
      · subst he
        rw [Vector.getElem_set_self]
        exact hother k fun hk => hne ⟨rfl, hk⟩
      · rw [Vector.getElem_set_ne h he' he]
    · rw [dif_neg he', dif_neg he']

/-- What the four map tables read depends on the tables alone. -/
theorem readField_map_congr {s t : State} {b : MgmtAddr} (hb : b.table ∈ [2, 3, 4, 5])
    (hlr : t.map.liveRegions = s.map.liveRegions) (hll : t.map.liveLayouts = s.map.liveLayouts)
    (hsr : b.table = 2 → t.readField b = s.readField b) (hsl : b.table = 4 → t.readField b = s.readField b) :
    t.readField b = s.readField b := by
  obtain ⟨bt, e, k⟩ := b
  simp only [List.mem_cons, List.not_mem_nil, or_false] at hb
  rcases hb with rfl | rfl | rfl | rfl
  · exact hsr rfl
  · show tableField t.map.liveRegions Region.field e k = tableField s.map.liveRegions Region.field e k
    rw [hlr]
  · exact hsl rfl
  · show tableField t.map.liveLayouts Layout.field e k = tableField s.map.liveLayouts Layout.field e k
    rw [hll]

/-! ### MAP_TABLE_WRITE (R23) -/

theorem writeRow_mapTable {a : MgmtAddr} (h : a.table ∈ [2, 3, 4, 5]) : writeRow a = .mapTableWrite := by
  obtain ⟨t, e, k⟩ := a
  simp only [List.mem_cons, List.not_mem_nil, or_false] at h
  rcases h with rfl | rfl | rfl | rfl <;> rfl

theorem exec_mapTableWrite_refused {s : State} {q : QueuedPacket} {rest : List QueuedPacket} {a : MgmtAddr} {v : Word32}
    {code : MgmtCode} (h : ManagerHead s q rest (.mgmtWrite a v)) (ha : a.table ∈ [2, 3, 4, 5])
    (hj : ∀ t, judgeMapTable q a v t = code) (hc : code ≠ .ok) :
    exec .mapTableWrite s = .next (answered s q rest (.mgmtResp code none)) :=
  congrArg Host.Outcome.next (serveWrite_of_refused h (writeRow_mapTable ha) (hj _) hc)

theorem judgeMapTable_badIndex {a : MgmtAddr} (ha : a.table ∈ [2, 3, 4, 5]) (hi : ¬MapIndex a) (q : QueuedPacket)
    (v : Word32) (t : State) : judgeMapTable q a v t = .badIndex :=
  if_pos (Bool.eq_false_iff.2 fun h => hi ((mapIndexOk_iff ha).1 h))

theorem judgeMapTable_live {a : MgmtAddr} (ha : a.table ∈ [2, 3, 4, 5]) (hi : MapIndex a) (hlive : a.table = 3 ∨ a.table = 5)
    (q : QueuedPacket) (v : Word32) (t : State) : judgeMapTable q a v t = .readOnlyField :=
  (if_neg (by rw [(mapIndexOk_iff ha).2 hi]; decide)).trans (if_pos hlive)

/-- A write of a shadow table is judged by the range of its field. -/
theorem judgeMapTable_shadow {a : MgmtAddr} (ha : a.table = 2 ∨ a.table = 4) (hi : MapIndex a) (q : QueuedPacket)
    (v : Word32) (t : State) : (MapRange a v.toNat → judgeMapTable q a v t = .ok) ∧
      (¬MapRange a v.toNat → judgeMapTable q a v t = .badValue) := by
  have hmem : a.table ∈ [2, 3, 4, 5] := by rcases ha with h | h <;> simp [h]
  have hnot : ¬(a.table = 3 ∨ a.table = 5) := by omega
  have hval := mapValueOk_iff ha hi v
  unfold judgeMapTable
  rw [if_neg (by rw [(mapIndexOk_iff hmem).2 hi]; decide), if_neg hnot]
  exact ⟨fun h => if_neg (by rw [hval.2 h]; decide), fun h => if_pos (Bool.eq_false_iff.2 fun h' => h (hval.1 h'))⟩

theorem carryMapTable_region {e : Nat} (h : e < 16) (q : QueuedPacket) (k : Nat) (v : Word32) (s : State) :
    carryMapTable q ⟨2, e, k⟩ v s = { s with map := { s.map with
      shadowRegions := s.map.shadowRegions.set e (s.map.shadowRegions[e].withField k v.toNat) } } :=
  congrArg (fun m => { s with map := m }) ((if_pos rfl).trans (dif_pos h))

theorem carryMapTable_layout {e : Nat} (h : e < 4) (q : QueuedPacket) (k : Nat) (v : Word32) (s : State) :
    carryMapTable q ⟨4, e, k⟩ v s = { s with map := { s.map with
      shadowLayouts := s.map.shadowLayouts.set e (s.map.shadowLayouts[e].withField k v.toNat) } } :=
  congrArg (fun m => { s with map := m })
    ((if_neg (by decide : ¬(4 : Nat) = 2)).trans ((if_pos rfl).trans (dif_pos h)))

/-- A write of a shadow table that passes: it reads back, and every other field of the map tables stays. -/
theorem exec_mapTableWrite_ok {s : State} {q : QueuedPacket} {rest : List QueuedPacket} {a : MgmtAddr} {v : Word32}
    (h : ManagerHead s q rest (.mgmtWrite a v)) (ha : a.table = 2 ∨ a.table = 4) (hi : MapIndex a)
    (hv : MapRange a v.toNat) : ∃ t, exec .mapTableWrite s = .next t ∧ t.readField a = some v.toNat ∧
      (∀ b, b ≠ a → b.table ∈ [2, 3, 4, 5] → t.readField b = s.readField b) ∧
      t = answered { s with map := { s.map with shadowRegions := t.map.shadowRegions,
                                                shadowLayouts := t.map.shadowLayouts } } q rest (.mgmtResp .ok none) := by
  have hmem : a.table ∈ [2, 3, 4, 5] := by rcases ha with h | h <;> simp [h]
  obtain ⟨hok, -⟩ := judgeMapTable_shadow ha hi q v (taken s rest)
  refine ⟨_, congrArg Host.Outcome.next (serveWrite_of_ok h (writeRow_mapTable hmem) (hok hv)), ?_⟩
  obtain ⟨table, e, k⟩ := a
  simp only [MapIndex, MapRange, List.mem_cons, List.not_mem_nil, or_false] at ha hi hv
  rcases ha with rfl | rfl
  · have he : e < 16 := by omega
    have hk : k ≤ 8 := by omega
    have hrange : FieldRange regionRanges k v.toNat := by simpa using hv
    rw [carryMapTable_region he]
    obtain ⟨hback, hother⟩ := tableField_set he (region_withField s.map.shadowRegions[e] hk hrange)
    refine ⟨hback, fun b hb hbt => readField_map_congr hbt rfl rfl (fun h2 => ?_) (fun h4 => ?_), rfl⟩
    · obtain ⟨_, e', k'⟩ := b
      subst h2
      exact hother e' k' fun ⟨he', hk'⟩ => hb (by rw [he', hk'])
    · obtain ⟨_, e', k'⟩ := b
      subst h4
      rfl
  · have he : e < 4 := by omega
    have hk : k ≤ 1 := by omega
    have hrange : FieldRange layoutRanges k v.toNat := by simpa using hv
    rw [carryMapTable_layout he]
    obtain ⟨hback, hother⟩ := tableField_set he (layout_withField s.map.shadowLayouts[e] hk hrange)
    refine ⟨hback, fun b hb hbt => readField_map_congr hbt rfl rfl (fun h2 => ?_) (fun h4 => ?_), rfl⟩
    · obtain ⟨_, e', k'⟩ := b
      subst h2
      rfl
    · obtain ⟨_, e', k'⟩ := b
      subst h4
      exact hother e' k' fun ⟨he', hk'⟩ => hb (by rw [he', hk'])

/-! ### CHANNEL_SETTINGS_WRITE and ROWS_PER_BANK_WRITE (R122, R123) -/

/-- The row that writes a channel setting. -/
abbrev settingRow (k : Nat) : Instr := if k = 22 then .rowsPerBankWrite else .channelSettingsWrite

theorem chanAt_val (c : Chan) : chanAt c.val = c := Fin.ext (Nat.mod_eq_of_lt c.isLt)

/-- A setting is refused alike by both rows. -/
theorem exec_settingWrite_refused {s : State} {q : QueuedPacket} {rest : List QueuedPacket} {e k : Nat} {v : Word32}
    {code : MgmtCode} (h : ManagerHead s q rest (.mgmtWrite ⟨6, e, k⟩ v))
    (hj : judgeSetting q ⟨6, e, k⟩ v (taken s rest) = code) (hc : code ≠ .ok) :
    exec (settingRow k) s = .next (answered s q rest (.mgmtResp code none)) := by
  by_cases hk : k = 22
  · subst hk
    have hrows : judgeRows q ⟨6, e, 22⟩ v (taken s rest) = code := by
      subst hj
      exact if_pos hc
    exact congrArg Host.Outcome.next (serveWrite_of_refused h rfl hrows hc)
  · rw [settingRow, if_neg hk]
    exact congrArg Host.Outcome.next (serveWrite_of_refused h (if_neg hk) hj hc)

/-- A setting is stored alike by both rows, and the row count has one more condition (R123). -/
theorem exec_settingWrite_ok {s : State} {q : QueuedPacket} {rest : List QueuedPacket} {c : Chan} {k : Nat} {v : Word32}
    (h : ManagerHead s q rest (.mgmtWrite ⟨6, c.val, k⟩ v))
    (hj : judgeSetting q ⟨6, c.val, k⟩ v (taken s rest) = .ok) (hg : k = 22 → s.geometryConflict c v.toNat = false) :
    exec (settingRow k) s = .next (answered (s.setChan c ((s.chan c).storeSetting k v.toNat)) q rest (.mgmtResp .ok none)) := by
  have hcarry : responded (carrySetting q ⟨6, c.val, k⟩ v (taken s rest)) q (.mgmtResp .ok none) =
      answered (s.setChan c ((s.chan c).storeSetting k v.toNat)) q rest (.mgmtResp .ok none) := by
    unfold carrySetting
    rw [show chanAt (⟨6, c.val, k⟩ : MgmtAddr).entry = c from chanAt_val c]
    rfl
  by_cases hk : k = 22
  · subst hk
    have hconflict : (taken s rest).geometryConflict (chanAt c.val) v.toNat = false := by
      rw [chanAt_val]
      exact hg rfl
    have hrows : judgeRows q ⟨6, c.val, 22⟩ v (taken s rest) = .ok :=
      (if_neg (not_not_intro hj)).trans (if_neg (Bool.eq_false_iff.1 hconflict))
    exact congrArg Host.Outcome.next ((serveWrite_of_ok h rfl hrows).trans hcarry)
  · rw [settingRow, if_neg hk]
    exact congrArg Host.Outcome.next ((serveWrite_of_ok h (if_neg hk) hj).trans hcarry)

theorem exec_rowsWrite_conflict {s : State} {q : QueuedPacket} {rest : List QueuedPacket} {c : Chan} {v : Word32}
    (h : ManagerHead s q rest (.mgmtWrite ⟨6, c.val, 22⟩ v))
    (hj : judgeSetting q ⟨6, c.val, 22⟩ v (taken s rest) = .ok) (hg : s.geometryConflict c v.toNat = true) :
    exec .rowsPerBankWrite s = .next (answered s q rest (.mgmtResp .geometryConflict none)) := by
  have hconflict : (taken s rest).geometryConflict (chanAt c.val) v.toNat = true := by
    rw [chanAt_val]
    exact hg
  have hrows : judgeRows q ⟨6, c.val, 22⟩ v (taken s rest) = .geometryConflict :=
    (if_neg (not_not_intro hj)).trans (if_pos hconflict)
  exact congrArg Host.Outcome.next (serveWrite_of_refused h rfl hrows (by decide))

/-- The judgment of a setting on an existing channel, condition by condition (R122). -/
theorem judgeSetting_eq {k : Nat} (q : QueuedPacket) (c : Chan) (hk : k ≤ 22) (v : Word32) (s : State) :
    judgeSetting q ⟨6, c.val, k⟩ v s =
      if settingsWritable (s.chan c).state = false then .notHeld
      else if (s.chan c).longCmd.isSome = true then .busy
      else if settingInRange k v.toNat = false then .badValue else .ok := by
  have hindex : ¬(1 < c.val ∨ 22 < k) := by have := c.isLt; omega
  unfold judgeSetting
  dsimp only
  rw [if_neg hindex, chanAt_val]

theorem settingsWritable_iff (st : ChanState) : settingsWritable st = true ↔ st ∈ [ChanState.uninit, .held] := by
  simp [settingsWritable]

/-- A live footprint on the channel reaches the new row count (R123). -/
theorem geometryConflict_iff (s : State) (c : Chan) (rows : Nat) : s.geometryConflict c rows = true ↔
    ∃ r ∈ validRegions s.map.liveRegions, ∃ lo hi,
      footprint s.map.liveLayouts r c = some (lo, hi) ∧ rows ≤ hi := by
  unfold State.geometryConflict
  rw [List.any_eq_true]
  refine exists_congr fun r => and_congr_right fun _ => ?_
  unfold beyondRows
  cases footprint s.map.liveLayouts r c with
  | none => simp
  | some p =>
    obtain ⟨lo, hi⟩ := p
    simp

theorem storeSetting_pending (x : Channel) (k v : Nat) : (x.storeSetting k v).settingsPending =
    (x.settingsPending || decide (x.settings.field k ≠ some v)) := by
  refine congrArg (x.settingsPending || ·) ?_
  rw [Bool.eq_iff_iff, bne_iff_ne, decide_eq_true_eq]

/-- Settles O34: the map tables by index, table and range; the settings by the conditions of R122 in their order. -/
theorem tableWritesReadBack : Obligations.TableWritesReadBack := by
  intro s q rest a v h
  refine ⟨fun ha hi hv => exec_mapTableWrite_ok h ha hi hv, fun ha => ⟨fun hi => ?_, fun hi hlive => ?_, fun hi hs hv => ?_⟩,
    fun ha he => ?_, fun c i ha he hi => ?_⟩
  · exact exec_mapTableWrite_refused h ha (judgeMapTable_badIndex ha hi q v) (by decide)
  · exact exec_mapTableWrite_refused h ha (judgeMapTable_live ha hi hlive q v) (by decide)
  · refine exec_mapTableWrite_refused h ha (fun t => ?_) (by decide)
    obtain ⟨-, hbad⟩ := judgeMapTable_shadow hs hi q v t
    exact hbad hv
  · obtain ⟨_, e, k⟩ := a
    subst ha
    exact exec_settingWrite_refused (code := .badIndex) h (if_pos (Or.inl he)) (by decide)
  · obtain ⟨_, _, k⟩ := a
    subst ha he hi
    refine ⟨fun hk => exec_settingWrite_refused (code := .badIndex) h (if_pos (Or.inr hk)) (by decide), fun hk => ?_⟩
    have hjudge := judgeSetting_eq q c hk v (taken s rest)
    refine ⟨fun hst => ?_, fun hst => ?_⟩
    · refine exec_settingWrite_refused h (hjudge.trans (if_pos (Bool.eq_false_iff.2 fun hw => ?_))) (by decide)
      exact hst ((settingsWritable_iff _).1 hw)
    have hwritable : ¬settingsWritable ((taken s rest).chan c).state = false := by
      rw [Bool.not_eq_false]
      exact (settingsWritable_iff _).2 hst
    rw [if_neg hwritable] at hjudge
    refine ⟨fun hbusy => ?_, fun hidle => ?_⟩
    · exact exec_settingWrite_refused h (hjudge.trans (if_pos (Option.isSome_iff_ne_none.2 hbusy))) (by decide)
    have hnot : ¬((taken s rest).chan c).longCmd.isSome = true := by
      rw [taken_chan, hidle]
      decide
    rw [if_neg hnot] at hjudge
    refine ⟨fun hv => ?_, fun hv => ?_⟩
    · refine exec_settingWrite_refused h (hjudge.trans (if_pos (Bool.eq_false_iff.2 fun hr => ?_))) (by decide)
      exact hv ((settingInRange_iff hk _).1 hr)
    have hok := hjudge.trans (if_neg (by rw [(settingInRange_iff hk _).2 hv]; decide))
    refine ⟨fun hk22 hconflict => ?_, fun hclear => ?_⟩
    · subst hk22
      exact exec_rowsWrite_conflict h hok ((geometryConflict_iff s c _).2 hconflict)
    have hfree : k = 22 → s.geometryConflict c v.toNat = false := fun hk22 => by
      refine Bool.eq_false_iff.2 fun hg => ?_
      obtain ⟨r, hr, lo, hi, hf, hle⟩ := (geometryConflict_iff s c _).1 hg
      exact Nat.not_lt.2 hle (hclear hk22 r hr lo hi hf)
    obtain ⟨hback, hother⟩ := setting_withField (s.chan c).settings hk v.toNat
    have hchan : (answered (s.setChan c ((s.chan c).storeSetting k v.toNat)) q rest (.mgmtResp .ok none)).chan c =
        (s.chan c).storeSetting k v.toNat := State.chan_setChan_same s c _
    refine ⟨_, (s.chan c).settings.withField k v.toNat, exec_settingWrite_ok h hok hfree, ?_, hother, ?_, ?_⟩
    · refine (dif_pos c.isLt).trans ?_
      show ((answered (s.setChan c ((s.chan c).storeSetting k v.toNat)) q rest (.mgmtResp .ok none)).chan c).settings.field k = _
      rw [hchan]
      exact hback
    · rw [hchan, storeSetting_pending]
    · rw [hchan]
      rfl

end Sys2Proof.Proofs
end

section
/-! Management: the writes of the maintenance settings, and of every field with no row of its own (O35). -/

namespace Sys2Proof.Proofs

-- One proof after the other, in the memory that the check allows.
set_option Elab.async false

open Sys2Proof Sys2Proof.Machine Sys2Proof.Safety Sys2Proof.Laws

/-! ### The settings as a list of values -/

/-- The ten maintenance settings. -/
def maintNats (m : MaintSettings) : List Nat :=
  [m.urgencyThreshold, m.trimReach, m.tempSens, m.voltSens, m.voltDrift, m.trimMinMs, m.trimMaxMs, m.trimGraceUs,
    m.staleTimeoutMs, m.noticeEnable]

theorem maint_fields (m : MaintSettings) : ∀ k, m.field k = (maintNats m)[k]? := by
  refine fields_eq_list (n := 10) rfl (fun k hk => ?_) fun k hk => ?_
  · interval_cases k <;> rfl
  · unfold MaintSettings.field
    split <;> first | rfl | omega

theorem maintNats_withField (m : MaintSettings) {i : Nat} (h : i ≤ 9) (v : Nat) :
    maintNats (m.withField i v) = (maintNats m).set i v := by
  interval_cases i <;> rfl

/-- A maintenance setting that is stored reads back, and every other one stays. -/
theorem maint_withField (m : MaintSettings) {i : Nat} (h : i ≤ 9) (v : Nat) :
    (m.withField i v).field i = some v ∧ ∀ k, k ≠ i → (m.withField i v).field k = m.field k :=
  reads_back_of_set (maint_fields m) (maint_fields _) (maintNats_withField m h v) (Nat.lt_succ_of_le h)

/-- What the MAINTENANCE table reads depends on the settings alone. -/
theorem readField_maintenance (s : State) (k : Nat) : s.readField ⟨7, 0, k⟩ = s.mgmt.settings.field k := rfl

/-- After a stored setting: it reads back as value and as field, and every other setting reads as before. -/
theorem maintenance_reads_back {s t : State} {k : Nat} (hk : k ≤ 9) {v : Word32}
    (ht : t.mgmt.settings = s.mgmt.settings.withField k v.toNat) : t.readField ⟨7, 0, k⟩ = some v.toNat ∧
      (entryFields t 7 0)[k]? = some v ∧ ∀ j, j ≠ k → t.readField ⟨7, 0, j⟩ = s.readField ⟨7, 0, j⟩ ∧
        (entryFields t 7 0)[j]? = (entryFields s 7 0)[j]? := by
  obtain ⟨hback, hother⟩ := maint_withField s.mgmt.settings hk v.toNat
  have hread : t.readField ⟨7, 0, k⟩ = some v.toNat := by rw [readField_maintenance, ht, hback]
  refine ⟨hread, ?_, fun j hj => ?_⟩
  · rw [← readField_eq t ⟨7, 0, k⟩, hread, Option.map_some, word_toNat]
  · have hsame : t.readField ⟨7, 0, j⟩ = s.readField ⟨7, 0, j⟩ := by
      rw [readField_maintenance, readField_maintenance, ht, hother j hj]
    refine ⟨hsame, ?_⟩
    rw [← readField_eq t ⟨7, 0, j⟩, ← readField_eq s ⟨7, 0, j⟩, hsame]

/-! ### The rows of the MAINTENANCE table -/

theorem writeRow_trim {e k : Nat} (h1 : 1 ≤ k) (h6 : k ≤ 6) : writeRow ⟨7, e, k⟩ = .trimSettingsWrite :=
  (if_neg (Nat.ne_of_gt h1)).trans (if_pos ⟨h1, h6⟩)

theorem writeRow_maintOther {e k : Nat} (h : k = 7 ∨ k = 8 ∨ 9 < k) : writeRow ⟨7, e, k⟩ = .mgmtWrite := by
  have h0 : ¬k = 0 := by omega
  have h6 : ¬(1 ≤ k ∧ k ≤ 6) := by omega
  have h9 : ¬k = 9 := by omega
  exact (if_neg h0).trans ((if_neg h6).trans (if_neg h9))

/-- Every row of the MAINTENANCE table judges by R154. -/
theorem exec_maintenanceWrite (e k : Nat) :
    ∃ (judge : QueuedPacket → MgmtAddr → Word32 → State → MgmtCode)
      (carry : QueuedPacket → MgmtAddr → Word32 → State → State),
      (∀ s, exec (writeRow ⟨7, e, k⟩) s = .next (s.serveWrite (writeRow ⟨7, e, k⟩) judge carry)) ∧
      ∀ q v s, judge q ⟨7, e, k⟩ v s = judgeMaintenance q ⟨7, e, k⟩ v s := by
  have hk : k = 0 ∨ (1 ≤ k ∧ k ≤ 6) ∨ k = 9 ∨ k = 7 ∨ k = 8 ∨ 9 < k := by omega
  rcases hk with rfl | ⟨h1, h6⟩ | rfl | hother
  · exact ⟨judgeMaintenance, _, fun _ => rfl, fun _ _ _ => rfl⟩
  · rw [writeRow_trim h1 h6]
    exact ⟨judgeMaintenance, _, fun _ => rfl, fun _ _ _ => rfl⟩
  · exact ⟨judgeMaintenance, _, fun _ => rfl, fun _ _ _ => rfl⟩
  · rw [writeRow_maintOther hother]
    exact ⟨judgeOther, _, fun _ => rfl, fun _ _ _ => if_pos rfl⟩

theorem exec_maintenanceWrite_refused {s : State} {q : QueuedPacket} {rest : List QueuedPacket} {e k : Nat} {v : Word32}
    {code : MgmtCode} (h : ManagerHead s q rest (.mgmtWrite ⟨7, e, k⟩ v))
    (hj : judgeMaintenance q ⟨7, e, k⟩ v (taken s rest) = code) (hc : code ≠ .ok) :
    exec (writeRow ⟨7, e, k⟩) s = .next (answered s q rest (.mgmtResp code none)) := by
  obtain ⟨judge, carry, hexec, hjudge⟩ := exec_maintenanceWrite e k
  rw [hexec, serveWrite_of_refused h rfl ((hjudge q v _).trans hj) hc]

theorem judgeMaintenance_passes {s : State} {q : QueuedPacket} {rest : List QueuedPacket} {k : Nat} {v : Word32}
    (hk : k ≤ 9) (hp : MaintenancePasses s.mgmt.settings k v.toNat) :
    judgeMaintenance q ⟨7, 0, k⟩ v (taken s rest) = .ok := by
  obtain ⟨hiff, -⟩ := judgeMaintenance_ok_iff q v (taken s rest) hk
  exact hiff.2 hp

section Carried

variable {s : State} {q : QueuedPacket} {rest : List QueuedPacket} {k : Nat} {v : Word32}

theorem exec_urgencyThreshold (h : ManagerHead s q rest (.mgmtWrite ⟨7, 0, 0⟩ v))
    (hp : MaintenancePasses s.mgmt.settings 0 v.toNat) : exec .urgencyThresholdWrite s =
      .next (responded (carryUrgencyThreshold q ⟨7, 0, 0⟩ v (taken s rest)) q (.mgmtResp .ok none)) :=
  congrArg Host.Outcome.next (serveWrite_of_ok h rfl (judgeMaintenance_passes (by decide) hp))

theorem exec_trimSettings (h1 : 1 ≤ k) (h6 : k ≤ 6) (h : ManagerHead s q rest (.mgmtWrite ⟨7, 0, k⟩ v))
    (hp : MaintenancePasses s.mgmt.settings k v.toNat) : exec .trimSettingsWrite s =
      .next (responded (carryTrimSetting q ⟨7, 0, k⟩ v (taken s rest)) q (.mgmtResp .ok none)) :=
  congrArg Host.Outcome.next
    (serveWrite_of_ok h (writeRow_trim h1 h6) (judgeMaintenance_passes (h6.trans (by decide)) hp))

theorem exec_maintOther (hk : k = 7 ∨ k = 8) (h : ManagerHead s q rest (.mgmtWrite ⟨7, 0, k⟩ v))
    (hp : MaintenancePasses s.mgmt.settings k v.toNat) : exec .mgmtWrite s =
      .next (responded (carryOther q ⟨7, 0, k⟩ v (taken s rest)) q (.mgmtResp .ok none)) :=
  congrArg Host.Outcome.next (serveWrite_of_ok h (writeRow_maintOther (hk.imp_right Or.inl))
    ((if_pos rfl).trans (judgeMaintenance_passes (by omega) hp)))

theorem exec_noticeEnable (h : ManagerHead s q rest (.mgmtWrite ⟨7, 0, 9⟩ v))
    (hp : MaintenancePasses s.mgmt.settings 9 v.toNat) : exec .noticeEnableWrite s =
      .next (responded (carryNoticeEnable q ⟨7, 0, 9⟩ v (taken s rest)) q (.mgmtResp .ok none)) :=
  congrArg Host.Outcome.next (serveWrite_of_ok h rfl (judgeMaintenance_passes (by decide) hp))

/-- A maintenance write that passes stores its setting, whichever row serves it. -/
theorem exec_maintenanceWrite_stores (hk : k ≤ 9) (h : ManagerHead s q rest (.mgmtWrite ⟨7, 0, k⟩ v))
    (hp : MaintenancePasses s.mgmt.settings k v.toNat) : ∃ t, exec (writeRow ⟨7, 0, k⟩) s = .next t ∧
      t.mgmt.settings = s.mgmt.settings.withField k v.toNat := by
  have hcases : k = 0 ∨ (1 ≤ k ∧ k ≤ 6) ∨ (k = 7 ∨ k = 8) ∨ k = 9 := by omega
  rcases hcases with rfl | ⟨h1, h6⟩ | h78 | rfl
  · exact ⟨_, exec_urgencyThreshold h hp, rfl⟩
  · rw [writeRow_trim h1 h6]
    refine ⟨_, exec_trimSettings h1 h6 h hp, ?_⟩
    obtain ⟨-, -, -, -, hmgmt, -⟩ := recomputeTrims_frame ((taken s rest).storeMaintenance k v.toNat)
    exact congrArg Mgmt.settings hmgmt
  · rw [writeRow_maintOther (h78.imp_right Or.inl)]
    exact ⟨_, exec_maintOther h78 h hp, rfl⟩
  · exact ⟨_, exec_noticeEnable h hp, rfl⟩

end Carried

/-- The state with a maintenance setting stored and the head taken. -/
abbrev settingTaken (s : State) (rest : List QueuedPacket) (k : Nat) (v : Word32) : State :=
  taken { s with mgmt := { s.mgmt with settings := s.mgmt.settings.withField k v.toNat } } rest

theorem carryTrimSetting_taken (q : QueuedPacket) (k : Nat) (v : Word32) (s : State) (rest : List QueuedPacket) :
    carryTrimSetting q ⟨7, 0, k⟩ v (taken s rest) = (settingTaken s rest k v).recomputeTrims := rfl

theorem carryUrgencyThreshold_chan (q : QueuedPacket) (v : Word32) (t : State) (c : Chan) :
    (carryUrgencyThreshold q ⟨7, 0, 0⟩ v t).chan c =
      { t.chan c with urgent := decide ((v.toNat : Int) ≤ (t.chan c).debt) } :=
  chan_modChan_both (t.storeMaintenance 0 v.toNat) (fun x => x.judgeUrgent v.toNat) c

theorem carryUrgencyThreshold_taken (q : QueuedPacket) (v : Word32) (s : State) (rest : List QueuedPacket) :
    carryUrgencyThreshold q ⟨7, 0, 0⟩ v (taken s rest) =
      taken { s with mgmt := { s.mgmt with settings := s.mgmt.settings.withField 0 v.toNat }
                     chans := (carryUrgencyThreshold q ⟨7, 0, 0⟩ v (taken s rest)).chans } rest := rfl

/-! ### Fields with no row of their own (R152) -/

/-- The taking of the head changes values of fields, and no entry's number of fields. -/
theorem entryFields_taken_length (s : State) (rest : List QueuedPacket) (t e : Nat) :
    (entryFields (taken s rest) t e).length = (entryFields s t e).length := by
  match t with
  | 0 | 1 | 2 | 3 | 4 | 5 | 6 | 7 | 8 | 9 | 10 | 11 | 12 => rfl
  | 13 =>
    show (if e = 0 then linkFields (taken s rest) else []).length = (if e = 0 then linkFields s else []).length
    split <;> rfl
  | _ + 14 => rfl

theorem readField_taken_isSome (s : State) (rest : List QueuedPacket) (a : MgmtAddr) :
    ((taken s rest).readField a).isSome = (s.readField a).isSome := by
  rw [Bool.eq_iff_iff, readField_isSome_iff, readField_isSome_iff, entryFields_taken_length]

theorem judgeOther_of_table {a : MgmtAddr} (h : a.table ≠ 7) (q : QueuedPacket) (v : Word32) (s : State) :
    judgeOther q a v s = if (s.readField a).isSome = true then .readOnlyField else .badIndex := if_neg h

theorem exec_mgmtWrite_refused {s : State} {q : QueuedPacket} {rest : List QueuedPacket} {a : MgmtAddr} {v : Word32}
    (h : ManagerHead s q rest (.mgmtWrite a v)) (hrow : writeRow a = .mgmtWrite) (htable : a.table ≠ 7) :
    ((s.readField a).isSome = true → exec .mgmtWrite s = .next (answered s q rest (.mgmtResp .readOnlyField none))) ∧
    (s.readField a = none → exec .mgmtWrite s = .next (answered s q rest (.mgmtResp .badIndex none))) := by
  have hj := judgeOther_of_table htable q v (taken s rest)
  rw [readField_taken_isSome] at hj
  refine ⟨fun hsome => ?_, fun hnone => ?_⟩
  · exact congrArg Host.Outcome.next (serveWrite_of_refused h hrow (hj.trans (if_pos hsome)) (by decide))
  · have hnot : ¬(s.readField a).isSome = true := by
      rw [hnone]
      decide
    exact congrArg Host.Outcome.next (serveWrite_of_refused h hrow (hj.trans (if_neg hnot)) (by decide))

/-- Settles O35: the judgment is R154's for each row of the table, and each row stores its setting with its effect. -/
theorem maintenanceWrites : Obligations.MaintenanceWrites := by
  intro s q rest k v m hk hm
  subst hm
  refine ⟨fun h hnot => ?_, fun h hp => ⟨?_, fun h0 => ?_, fun h1 h6 => ?_, fun h78 => ?_, fun h9 => ?_⟩,
    fun a h ht hindex => ?_, fun a h hrow ht => exec_mgmtWrite_refused h hrow ht⟩
  · obtain ⟨-, hbad⟩ := judgeMaintenance_ok_iff q v (taken s rest) hk
    exact exec_maintenanceWrite_refused h (hbad hnot) (by decide)
  · obtain ⟨t, hexec, hsettings⟩ := exec_maintenanceWrite_stores hk h hp
    exact ⟨t, hexec, maintenance_reads_back hk hsettings⟩
  · subst h0
    exact ⟨_, carryUrgencyThreshold_chan q v (taken s rest), carryUrgencyThreshold_taken q v s rest,
      exec_urgencyThreshold h hp⟩
  · have hexec := exec_trimSettings h1 h6 h hp
    rw [carryTrimSetting_taken] at hexec
    obtain ⟨hnow, hlink, hintake, hmap, hmgmt, hpending, -⟩ := recomputeTrims_frame (settingTaken s rest k v)
    refine ⟨_, settingTaken s rest k v, rfl, hexec, rfl, fun c => ?_, fun c => ?_, ?_⟩
    · rw [responded_chan]
      exact recomputeTrims_chan (settingTaken s rest k v) c
    · rw [responded_chan]
      exact recomputeTrims_trimInterval (settingTaken s rest k v) c
    · rw [responded_link, responded_intake, responded_map, responded_mgmt, responded_now, responded_pending]
      exact ⟨hlink, hintake, hmap, hmgmt, hnow, hpending⟩
  · exact exec_maintOther h78 h hp
  · subst h9
    refine ⟨s.mgmt.notices.filter fun n => noticeEnabled v.toNat n.kind, fun n => List.mem_filter, ?_⟩
    rw [exec_noticeEnable h hp]
    unfold carryNoticeEnable
    simp only [List.isEmpty_iff]
    rfl
  · obtain ⟨_, e, j⟩ := a
    subst ht
    exact exec_maintenanceWrite_refused (code := .badIndex) h (if_pos hindex) (by decide)

end Sys2Proof.Proofs
end

section
/-! Management: the temperature report (O36), with what a settling of both channels can answer. -/

namespace Sys2Proof.Proofs

-- One proof after the other, in the memory that the check allows.
set_option Elab.async false

open Sys2Proof Sys2Proof.Machine Sys2Proof.Safety Sys2Proof.Laws

/-! ### What a settling adds to the response queue -/

theorem endLong_ret_grows (s : State) (c : Chan) (code : MgmtCode) :
    ∃ ended, (s.endLong c code).ret = { s.ret with queue := s.ret.queue ++ ended } := by
  by_cases h : ∀ r, (s.chan c).longCmd = some r → r.answerable = false
  · exact ⟨[], by rw [endLong_ret_of_unanswerable h code, List.append_nil]⟩
  · push Not at h
    obtain ⟨r, hr, ha⟩ := h
    rw [Bool.ne_false_iff] at ha
    exact ⟨_, endLong_ret_of_answerable hr ha code⟩

/-- A settling answers a HOLD where its drain is complete, and adds nothing else (R125). -/
theorem settle_ret_grows (s : State) (c : Chan) : ∃ ended, (s.settle c).ret = { s.ret with queue := s.ret.queue ++ ended } ∧
    (¬DrainConditions (s.chan c) → ended = []) := by
  by_cases h : (s.chan c).drained = true
  · obtain ⟨ended, hended⟩ := endLong_ret_grows (s.modChan c fun x => { x with state := .held }) c .ok
    refine ⟨ended, ?_, fun hn => absurd ((drained_iff _).1 h) hn⟩
    have hsettle : s.settle c = ((s.modChan c fun x => { x with state := .held }).endLong c .ok).modChan c
        fun x => x.judgeIdle ((s.modChan c fun x => { x with state := .held }).endLong c .ok).now := by
      unfold State.settle
      rw [if_pos h]
    rw [hsettle, State.modChan_ret, hended]
    rfl
  · refine ⟨[], ?_, fun _ => rfl⟩
    rw [settle_of_not_drained (Bool.eq_false_iff.2 h), List.append_nil]
    rfl

theorem settleAll_ret_grows (s : State) : ∃ ended, s.settleAll.ret = { s.ret with queue := s.ret.queue ++ ended } ∧
    ((∀ c, ¬DrainConditions (s.chan c)) → ended = []) := by
  obtain ⟨e0, h0, hn0⟩ := settle_ret_grows s 0
  obtain ⟨e1, h1, hn1⟩ := settle_ret_grows (s.settle 0) 1
  refine ⟨e0 ++ e1, ?_, fun hn => ?_⟩
  · unfold State.settleAll
    rw [h1, h0, List.append_assoc]
  · rw [settle_chan_ne s (by decide)] at hn1
    rw [hn0 (hn 0), hn1 (hn 1)]
    rfl

/-- A recomputation of the trim interval completes no hold drain. -/
theorem recomputeTrim_drain {x : Channel} {now d : Nat} {m : MaintSettings}
    (h : DrainConditions (x.recomputeTrim now m d)) : DrainConditions x := by
  rw [← drained_iff] at h ⊢
  unfold Channel.recomputeTrim at h
  dsimp only at h
  split at h
  · exact h
  · split at h
    · split at h
      · unfold Channel.shortTrimFallsDue at h
        dsimp only at h
        split at h
        · cases h
        · exact h
      · exact h
    · exact h

theorem recomputeTrims_ret_grows (s : State) :
    ∃ ended, s.recomputeTrims.ret = { s.ret with queue := s.ret.queue ++ ended } ∧
      ((∀ c, ¬DrainConditions (s.chan c)) → ended = []) := by
  obtain ⟨ended, hret, hnone⟩ := settleAll_ret_grows
    ((s.modChan 0 fun x => x.recomputeTrim s.now s.mgmt.settings s.mgmt.temp.drift).modChan 1
      fun x => x.recomputeTrim s.now s.mgmt.settings s.mgmt.temp.drift)
  refine ⟨ended, hret, fun h => hnone fun c hd => h c ?_⟩
  rw [chan_modChan_both s fun x => x.recomputeTrim s.now s.mgmt.settings s.mgmt.temp.drift] at hd
  exact recomputeTrim_drain hd

/-! ### The report's steps (R87) -/

/-- The temperature record after a report, the band apart. -/
abbrev reportedTemp (s : State) (v : Int) : TempRecord :=
  s.mgmt.temp.report v s.millis s.now s.mgmt.settings.staleTimeoutMs

/-- Steps 1 to 4 of R87. -/
abbrev reportRecorded (s : State) (v : Int) : State := s.modMgmt fun m => { m with temp := reportedTemp s v }

theorem takeReport_eq (s : State) (v : Int) : s.takeReport v = ((reportRecorded s v).reportBand v).recomputeTrims := rfl

/-- TEMP_OVER of a report. -/
abbrev tempOver (v : Int) : Notice := ⟨.tempOver, none, signed32 v⟩

theorem reportBand_of_over {s : State} {v : Int} (h : s.band ≠ .over ∧ bandOf v = .over) :
    s.reportBand v = (s.setBand (bandOf v)).raiseNotice (tempOver v) := if_pos h

theorem reportBand_of_not_over {s : State} {v : Int} (h : ¬(s.band ≠ .over ∧ bandOf v = .over)) :
    s.reportBand v = s.setBand (bandOf v) := if_neg h

theorem setBand_blocks (s : State) (b : Band) : (s.setBand b).now = s.now ∧ (s.setBand b).link = s.link ∧
    (s.setBand b).intake = s.intake ∧ (s.setBand b).map = s.map ∧ (s.setBand b).ret = s.ret ∧
    (s.setBand b).pending = s.pending ∧ (s.setBand b).mgmt = { s.mgmt with temp := { s.mgmt.temp with band := b } } := by
  rw [setBand_eq]
  exact ⟨rfl, rfl, rfl, rfl, rfl, rfl, rfl⟩

/-- Of the return path, raising a notice changes the wait alone. -/
theorem raiseNotice_ret (s : State) (n : Notice) :
    (s.raiseNotice n).ret = { s.ret with noticeWait := (s.raiseNotice n).ret.noticeWait } := by
  obtain ⟨-, -, -, -, -, -, hslots, hqueue, hnext, -⟩ := raiseNotice_frame s n
  generalize (s.raiseNotice n).ret = r at *
  cases r
  cases hslots
  cases hqueue
  cases hnext
  rfl

/-- The band of a report changes the band, the running intervals and, at a change to OVER, the notices. -/
theorem reportBand_blocks (s : State) (v : Int) :
    (s.reportBand v).now = s.now ∧ (s.reportBand v).link = s.link ∧ (s.reportBand v).intake = s.intake ∧
    (s.reportBand v).map = s.map ∧ (s.reportBand v).pending = s.pending ∧
    (s.reportBand v).ret = { s.ret with noticeWait := (s.reportBand v).ret.noticeWait } ∧
    (s.reportBand v).mgmt = { s.mgmt with temp := { s.mgmt.temp with band := bandOf v }
                                          notices := (s.reportBand v).mgmt.notices } ∧
    ∀ c, (s.reportBand v).chan c = (s.chan c).takeBand s.now s.band (bandOf v) := by
  obtain ⟨hnow, hlink, hintake, hmap, hret, hpending, hmgmt⟩ := setBand_blocks s (bandOf v)
  by_cases h : s.band ≠ .over ∧ bandOf v = .over
  · rw [reportBand_of_over h]
    obtain ⟨know, klink, kintake, kmap, -, kpending, -⟩ :=
      raiseNotice_frame (s.setBand (bandOf v)) (tempOver v)
    refine ⟨know.trans hnow, klink.trans hlink, kintake.trans hintake, kmap.trans hmap, kpending.trans hpending, ?_, ?_,
      fun c => ?_⟩
    · rw [← hret]
      exact raiseNotice_ret _ _
    · rw [raiseNotice_mgmt, hmgmt]
    · rw [raiseNotice_chan, setBand_chan]
  · rw [reportBand_of_not_over h]
    exact ⟨hnow, hlink, hintake, hmap, hpending, by rw [hret], by rw [hmgmt], setBand_chan s (bandOf v)⟩

/-- A raised notice depends on what is enabled, on the notices and on the wait alone. -/
theorem raiseNotice_wait_congr {s t : State} (n : Notice) (he : s.mgmt.settings = t.mgmt.settings)
    (hn : s.mgmt.notices = t.mgmt.notices) (hw : s.ret.noticeWait = t.ret.noticeWait) :
    (s.raiseNotice n).ret.noticeWait = (t.raiseNotice n).ret.noticeWait := by
  have h : ∀ u : State, (u.raiseNotice n).ret.noticeWait =
      if (noticeEnabled u.mgmt.settings.noticeEnable n.kind && !(u.mgmt.notices.any n.samePair)) = true ∧
        u.mgmt.notices.isEmpty = true then 0 else u.ret.noticeWait := by
    intro u
    by_cases h1 : (noticeEnabled u.mgmt.settings.noticeEnable n.kind && !(u.mgmt.notices.any n.samePair)) = true
    · by_cases h2 : u.mgmt.notices.isEmpty = true
      · simp only [State.raiseNotice, h1, h2, if_true, and_self]
        rfl
      · simp only [State.raiseNotice, h1, h2, if_true]
        rfl
    · simp only [State.raiseNotice, h1]
      rfl
  rw [h, h, he, hn, hw]

theorem bandOf_over_iff (v : Int) : bandOf v = .over ↔ 190 ≤ v := by
  unfold bandOf
  split
  · simp; omega
  · split
    · simp; omega
    · simp; omega

theorem bandOf_normal_iff (v : Int) : bandOf v = .normal ↔ v < 170 := by
  unfold bandOf
  split
  · simpa using ‹v < 170›
  · split
    · simp; omega
    · simp; omega

/-- The notices after a report. -/
theorem reportBand_notices (s : State) (v : Int) :
    (s.band ≠ .over → 190 ≤ v →
      ((reportRecorded s v).reportBand v).mgmt.notices = (s.raiseNotice (tempOver v)).mgmt.notices ∧
      ((reportRecorded s v).reportBand v).ret.noticeWait = (s.raiseNotice (tempOver v)).ret.noticeWait) ∧
    (s.band = .over ∨ v < 190 →
      ((reportRecorded s v).reportBand v).mgmt.notices = s.mgmt.notices ∧
      ((reportRecorded s v).reportBand v).ret.noticeWait = s.ret.noticeWait) := by
  obtain ⟨-, -, -, -, hret, -, hmgmt⟩ := setBand_blocks (reportRecorded s v) (bandOf v)
  refine ⟨fun hb hv => ?_, fun h => ?_⟩
  · rw [reportBand_of_over (s := reportRecorded s v) ⟨hb, (bandOf_over_iff v).2 hv⟩]
    exact ⟨raiseNotice_notices_congr _ (by rw [hmgmt]; rfl) (by rw [hmgmt]; rfl),
      raiseNotice_wait_congr _ (by rw [hmgmt]; rfl) (by rw [hmgmt]; rfl) (by rw [hret]; rfl)⟩
  · have hnot : ¬((reportRecorded s v).band ≠ .over ∧ bandOf v = .over) := by
      rw [bandOf_over_iff]
      rintro ⟨hne, hv⟩
      rcases h with h | h
      · exact hne h
      · omega
    rw [reportBand_of_not_over hnot, hmgmt, hret]
    exact ⟨rfl, rfl⟩

/-! ### The intervals at a change of the band (R92, R93) -/

theorem intervalLength_hot {b : Band} (h : b ≠ .normal) (x : Settings) : intervalLength b x = x.refreshInterval / 2 := by
  cases b
  · exact absurd rfl h
  · rfl
  · rfl

/-- A channel that heats has its running interval cut where more than the new length remains. -/
theorem takeBand_heats {x : Channel} {st e : Nat} (h : x.interval = .running st e) (now : Nat) {new : Band}
    (hn : new ≠ .normal) : (x.takeBand now .normal new).interval = .running st
      (if x.settings.refreshInterval / 2 < x.settings.refreshInterval ∧ now + x.settings.refreshInterval / 2 < e
        then now + x.settings.refreshInterval / 2 else e) := by
  rw [takeBand_of_running h, intervalLength_hot hn]
  rfl

/-- A channel that does not heat keeps its interval. -/
theorem takeBand_interval_same {x : Channel} {now : Nat} {old new : Band}
    (h : old ≠ .normal ∨ new = .normal ∨ x.interval.isRunning = false) :
    (x.takeBand now old new).interval = x.interval := by
  cases hx : x.interval with
  | running st e =>
    have hlen : ¬(intervalLength new x.settings < intervalLength old x.settings ∧
        now + intervalLength new x.settings < e) := by
      rintro ⟨hlt, -⟩
      have hhalf : x.settings.refreshInterval / 2 ≤ x.settings.refreshInterval := Nat.div_le_self _ _
      rcases h with h | h | h
      · rw [intervalLength_hot h] at hlt
        cases new
        · exact absurd hlt (not_lt.2 hhalf)
        · exact lt_irrefl _ hlt
        · exact lt_irrefl _ hlt
      · subst h
        cases old
        · exact lt_irrefl _ hlt
        · exact absurd hlt (not_lt.2 hhalf)
        · exact absurd hlt (not_lt.2 hhalf)
      · rw [hx] at h
        cases h
    rw [takeBand_of_running hx, if_neg hlen]
  | stopped => rw [takeBand_of_stopped (by rw [hx]; rfl), hx]
  | expired => rw [takeBand_of_stopped (by rw [hx]; rfl), hx]

theorem settle_interval (s : State) (c : Chan) : ((s.settle c).chan c).interval = (s.chan c).interval := by
  rw [settle_chan_same, judgeIdle_frame]
  split <;> rfl

theorem recomputeTrims_interval (s : State) (c : Chan) : (s.recomputeTrims.chan c).interval = (s.chan c).interval := by
  rw [recomputeTrims_chan, settle_interval, State.chan_setChan_same, recomputeTrim_interval]

/-! ### TEMPERATURE_REPORT (R86 to R88) -/

theorem exec_temperatureReport_ok {s : State} {q : QueuedPacket} {rest : List QueuedPacket} {v : Word32}
    (h : ManagerHead s q rest (.mgmtWrite ⟨8, 0, 0⟩ v)) (hlo : -80 ≤ v.toInt) (hhi : v.toInt ≤ 254) :
    exec .temperatureReport s = .next (responded ((taken s rest).takeReport v.toInt) q (.mgmtResp .ok none)) := by
  have hindex : ¬((0 : Nat) ≠ 0 ∨ 5 < 0) := by decide
  have hrange : ¬(v.toInt < -80 ∨ 254 < v.toInt) := by omega
  exact congrArg Host.Outcome.next (serveWrite_of_ok h rfl ((if_neg hindex).trans (if_neg hrange)))

theorem driftOf_eq (v p : Int) (n : Nat) : driftOf v p n = (v - p).natAbs * 50000 / max 1 n := by
  unfold driftOf
  congr 1
  split <;> omega

/-- The temperature record after a report. -/
theorem report_fields (t : TempRecord) (v : Int) (ms now staleMs : Nat) :
    (t.report v ms now staleMs).last = some v ∧ (t.report v ms now staleMs).lastTime = ms ∧
    (t.report v ms now staleMs).prev = t.last ∧
    (t.last ≠ none → (t.report v ms now staleMs).prevTime = t.lastTime) ∧
    (t.report v ms now staleMs).stale = false ∧
    (t.report v ms now staleMs).staleTimer = .running now (now + staleMs * 4000000) ∧
    (t.last = none → (t.report v ms now staleMs).drift = 0) ∧
    ∀ p, t.last = some p → (t.report v ms now staleMs).drift = (v - p).natAbs * 50000 / max 1 (ms - t.lastTime) := by
  unfold TempRecord.report
  refine ⟨rfl, rfl, rfl, fun h => if_pos (Option.isSome_iff_ne_none.2 h), rfl, rfl, fun h => ?_, fun p h => ?_⟩
  · simp only [h]
  · simp only [h, Option.isSome_some, if_true, driftOf_eq]

/-- Everything that a report leaves, from the state in which the head has been taken. -/
theorem takeReport_blocks (s : State) (v : Int) : ∃ ended,
    (s.takeReport v).link = s.link ∧ (s.takeReport v).intake = s.intake ∧ (s.takeReport v).map = s.map ∧
    (s.takeReport v).now = s.now ∧ (s.takeReport v).pending = s.pending ∧
    (s.takeReport v).ret = { s.ret with
      queue := s.ret.queue ++ ended, noticeWait := ((reportRecorded s v).reportBand v).ret.noticeWait } ∧
    ((∀ c, ¬DrainConditions (s.chan c)) → ended = []) ∧
    (s.takeReport v).mgmt = { s.mgmt with
      temp := { reportedTemp s v with band := bandOf v }, notices := ((reportRecorded s v).reportBand v).mgmt.notices } := by
  obtain ⟨hnow, hlink, hintake, hmap, hpending, hret, hmgmt, hchan⟩ := reportBand_blocks (reportRecorded s v) v
  obtain ⟨know, klink, kintake, kmap, kmgmt, kpending, -⟩ := recomputeTrims_frame ((reportRecorded s v).reportBand v)
  obtain ⟨ended, kret, knone⟩ := recomputeTrims_ret_grows ((reportRecorded s v).reportBand v)
  rw [takeReport_eq]
  refine ⟨ended, klink.trans hlink, kintake.trans hintake, kmap.trans hmap, know.trans hnow, kpending.trans hpending, ?_,
    fun h => knone fun c hd => h c ?_, ?_⟩
  · rw [kret, hret]
    rfl
  · rw [hchan, takeBand_frame] at hd
    exact hd
  · rw [kmgmt, hmgmt]
    rfl

/-- A channel at a report: the band, then the drift, then the settling. -/
theorem takeReport_chan (s : State) (v : Int) (c : Chan) :
    ((s.takeReport v).chan c).trimInterval = trimIntervalOf s.mgmt.settings (reportedTemp s v).drift ∧
    ((s.takeReport v).chan c).interval = ((s.chan c).takeBand s.now s.band (bandOf v)).interval ∧
    (s.takeReport v).chan c = ((s.setChan c ({ s.chan c with interval := ((s.takeReport v).chan c).interval }.recomputeTrim
      s.now s.mgmt.settings (reportedTemp s v).drift)).settle c).chan c := by
  obtain ⟨hnow, -, -, -, -, -, hmgmt, hchan⟩ := reportBand_blocks (reportRecorded s v) v
  have hsettings : ((reportRecorded s v).reportBand v).mgmt.settings = s.mgmt.settings := by
    rw [hmgmt]
    rfl
  have hdrift : ((reportRecorded s v).reportBand v).mgmt.temp.drift = (reportedTemp s v).drift := by
    rw [hmgmt]
    rfl
  have hx : ((reportRecorded s v).reportBand v).chan c = (s.chan c).takeBand s.now s.band (bandOf v) := hchan c
  have hinterval : ((s.takeReport v).chan c).interval = ((s.chan c).takeBand s.now s.band (bandOf v)).interval := by
    rw [takeReport_eq, recomputeTrims_interval, hx]
  refine ⟨?_, hinterval, ?_⟩
  · rw [takeReport_eq, recomputeTrims_trimInterval, hsettings, hdrift]
  · rw [hinterval, takeReport_eq, recomputeTrims_chan]
    refine settle_chan_congr ?_ hnow
    rw [State.chan_setChan_same, State.chan_setChan_same, hx, hnow, hsettings, hdrift, ← takeBand_frame]
    rfl

/-- Settles O36: the five steps of R87 one by one; the settling can answer a HOLD, and answers nothing else. -/
theorem temperatureReportTaken : Obligations.TemperatureReportTaken := by
  intro s q rest v
  refine ⟨fun e he h => ?_, fun h => ⟨fun hout => ?_, fun hlo hhi => ?_⟩⟩
  · exact congrArg Host.Outcome.next
      (serveWrite_of_refused (code := .badIndex) h rfl (if_pos (Or.inl he)) (by decide))
  · have hindex : ¬((0 : Nat) ≠ 0 ∨ 5 < 0) := by decide
    exact congrArg Host.Outcome.next
      (serveWrite_of_refused (code := .badValue) h rfl ((if_neg hindex).trans (if_pos hout)) (by decide))
  obtain ⟨ended, hlink, hintake, hmap, hnow, hpending, hret, hnone, hmgmt⟩ := takeReport_blocks (taken s rest) v.toInt
  obtain ⟨hlast, hlastTime, hprev, hprevTime, hstale, htimer, hdrift0, hdrift⟩ :=
    report_fields s.mgmt.temp v.toInt s.millis s.now s.mgmt.settings.staleTimeoutMs
  obtain ⟨hover, hquiet⟩ := reportBand_notices (taken s rest) v.toInt
  have hchan := takeReport_chan (taken s rest) v.toInt
  have hwait := raiseNotice_wait_congr (s := taken s rest) (t := s) (tempOver v.toInt) rfl rfl rfl
  have hnotices := raiseNotice_notices_congr (s := taken s rest) (t := s) (tempOver v.toInt) rfl rfl
  refine ⟨_, ended, exec_temperatureReport_ok h hlo hhi, ?_⟩
  generalize (taken s rest).takeReport v.toInt = t at *
  refine ⟨hlink, ?_, hnone, ?_, ?_, ?_, ?_, fun hne => ?_, ?_, ?_, ?_, fun h0 => ?_, fun p hp => ?_, fun c => ?_,
    fun c st e hi hb hv => ?_, fun c hc => ?_, fun c => ?_, fun hb hv henable hfree => ?_, fun hb hv => ?_, fun hb => ?_,
    hmap, hintake, ?_, ?_, hnow, hpending⟩
  · rw [responded_ret, hret]
    rfl
  · rw [responded_ret, hret]
    rfl
  · rw [responded_mgmt, hmgmt]
    exact hlast
  · rw [responded_mgmt, hmgmt]
    exact hlastTime
  · rw [responded_mgmt, hmgmt]
    exact hprev
  · rw [responded_mgmt, hmgmt]
    exact hprevTime hne
  · rw [responded_mgmt, hmgmt]
    exact hstale
  · rw [responded_mgmt, hmgmt]
    exact htimer
  · rw [responded_mgmt, hmgmt]
    rfl
  · rw [responded_mgmt, hmgmt]
    exact hdrift0 h0
  · rw [responded_mgmt, hmgmt]
    exact hdrift p hp
  · rw [responded_mgmt, hmgmt]
    exact (hchan c).1
  · obtain ⟨-, hinterval, -⟩ := hchan c
    rw [responded_chan, hinterval]
    have hnew : bandOf v.toInt ≠ .normal := by
      rw [Ne, bandOf_normal_iff]
      omega
    have hold : (taken s rest).band = .normal := hb
    rw [hold]
    exact takeBand_heats (x := s.chan c) hi s.now hnew
  · obtain ⟨-, hinterval, -⟩ := hchan c
    rw [responded_chan, hinterval]
    rw [← bandOf_normal_iff] at hc
    exact takeBand_interval_same (x := s.chan c) hc
  · obtain ⟨-, -, hwhole⟩ := hchan c
    rw [responded_chan, responded_mgmt, hmgmt]
    refine hwhole.trans (settle_chan_congr ?_ rfl)
    rw [State.chan_setChan_same, State.chan_setChan_same]
    rfl
  · obtain ⟨hnew, -⟩ := hover hb hv
    rw [responded_mgmt, hmgmt, hnew, hnotices, mem_raiseNotice]
    refine Or.inr ⟨rfl, henable, List.any_eq_false.2 fun n hn hsame => hfree n hn ?_⟩
    unfold Notice.samePair at hsame
    rw [Bool.and_eq_true] at hsame
    exact (beq_iff_eq.1 hsame.1).symm
  · obtain ⟨hnew, hnewWait⟩ := hover hb hv
    rw [responded_mgmt, responded_ret, hmgmt, hret, hnew, hnewWait, hnotices, hwait]
    exact ⟨rfl, rfl⟩
  · obtain ⟨hnew, hnewWait⟩ := hquiet hb
    rw [responded_mgmt, responded_ret, hmgmt, hret]
    exact ⟨hnew, hnewWait⟩
  · rw [responded_mgmt, hmgmt]
    rfl
  · rw [responded_mgmt, hmgmt]
    rfl

end Sys2Proof.Proofs
end

section
/-! Channel commands accepted (O38, O39), what every event of a channel ends with (O40), and the device commands
COMMIT_MAP, CLEAR_FAULT, CLEAR_COUNTERS and FUNCTION_RESET (O41, O43, O44). -/

namespace Sys2Proof.Proofs

-- One proof after the other, in the memory that the check allows.
set_option Elab.async false

open Sys2Proof Sys2Proof.Machine Sys2Proof.Safety Sys2Proof.Laws

/-! ### Channel commands accepted (R117, R118) -/

theorem judgeCommand_of_ok {x : Channel} {command : LongCommand} (hidle : x.longCmd = none)
    (h : acceptedIn command x.state = true) (hval : validatesSettings command = false ∨ x.settings.invalid = false) :
    x.judgeCommand command = .ok := by
  have hnot : ¬(validatesSettings command = true ∧ x.settings.invalid = true) := by
    rintro ⟨hv, hi⟩
    rcases hval with hval | hval
    · rw [hval] at hv
      cases hv
    · rw [hval] at hi
      cases hi
  unfold Channel.judgeCommand
  rw [hidle, if_neg (by decide), if_neg (by rw [h]; decide), if_neg hnot]

/-- A channel command that passes its judgment is accepted from the state in which its packet has been taken. -/
theorem serveCommand_accepted {s : State} {q : QueuedPacket} {rest : List QueuedPacket} {c : Chan} {n : Nat}
    {v : Option Word32} {row : Instr} {command : LongCommand} {accept : QueuedPacket → Chan → State → State}
    (hhead : ManagerHead s q rest (.mgmtCommand n c.val v)) (hrow : commandRow n = row)
    (hidle : (s.chan c).longCmd = none) (h : acceptedIn command (s.chan c).state = true)
    (hval : validatesSettings command = false ∨ (s.chan c).settings.invalid = false) :
    s.serveCommand row (fun q ch _ t => t.channelCommand q ch command (accept q)) = accept q c (taken s rest) := by
  rw [serveCommand_of_manager hhead hrow]
  exact channelCommand_of_ok (s := taken s rest) (judgeCommand_of_ok hidle h hval)

/-- The record of an accepted command is filled with what its acceptance changes in the channel. -/
theorem beginLong_modChan (s : State) (c : Chan) (q : QueuedPacket) (command : LongCommand) (f : Channel → Channel) :
    (s.beginLong c q command).modChan c f = s.setChan c (f { s.chan c with longCmd := record command q }) :=
  State.modChan_setChan ..

/-! A channel whose record is filled begins its drain, or its long trim, in DOZE with a doze exit. -/

section Begin

variable {x : Channel} {r : Option LongRecord}

theorem beginDrain_of_doze (h : x.state = .doze) (now : Nat) (st : ChanState) :
    { x with longCmd := r }.beginDrain now st = { x with longCmd := r }.leaveDoze now st := if_pos h

theorem beginDrain_of_awake (h : x.state ≠ .doze) (now : Nat) (st : ChanState) :
    { x with longCmd := r }.beginDrain now st = { x with state := st, longCmd := r } := if_neg h

theorem requestLongTrim_of_doze (h : x.state = .doze) (now : Nat) : { x with longCmd := r }.requestLongTrim now =
    { x with longTrimRequest := true, longCmd := r }.leaveDoze now .active := if_pos h

theorem requestLongTrim_of_awake (h : x.state ≠ .doze) (now : Nat) :
    { x with longCmd := r }.requestLongTrim now = { x with longTrimRequest := true, longCmd := r } := if_neg h

end Begin

section Accepted

variable {s : State} {q : QueuedPacket} {rest : List QueuedPacket} {c : Chan} {v : Option Word32}

/-- HOLD and RETAIN begin their drain alike (R124, R129). -/
theorem acceptHold_eq (s : State) (q : QueuedPacket) (c : Chan) : acceptHold q c s =
    (s.setChan c ({ s.chan c with longCmd := record .hold q }.beginDrain s.now .holding)).settle c :=
  congrArg (State.settle · c) (beginLong_modChan s c q .hold fun x => x.beginDrain s.now .holding)

theorem acceptRetain_eq (s : State) (q : QueuedPacket) (c : Chan) : acceptRetain q c s =
    (s.setChan c ({ s.chan c with longCmd := record .retain q }.beginDrain s.now .retainPending)).settle c :=
  congrArg (State.settle · c) (beginLong_modChan s c q .retain fun x => x.beginDrain s.now .retainPending)

theorem acceptTrimLong_eq (s : State) (q : QueuedPacket) (c : Chan) : acceptTrimLong q c s =
    (s.setChan c ({ s.chan c with longCmd := record .trimLong q }.requestLongTrim s.now)).settle c :=
  congrArg (State.settle · c) (beginLong_modChan s c q .trimLong fun x => x.requestLongTrim s.now)

theorem exec_hold_accepted (hhead : ManagerHead s q rest (.mgmtCommand 2 c.val v)) (hidle : (s.chan c).longCmd = none)
    (hstate : (s.chan c).state = .active ∨ (s.chan c).state = .doze) : exec .hold s = .next (((taken s rest).setChan c
      ({ s.chan c with longCmd := record .hold q }.beginDrain s.now .holding)).settle c) := by
  have haccepted : acceptedIn .hold (s.chan c).state = true := by rcases hstate with h | h <;> rw [h] <;> decide
  exact congrArg Host.Outcome.next ((serveCommand_accepted hhead rfl hidle haccepted (Or.inl rfl)).trans
    (acceptHold_eq (taken s rest) q c))

theorem exec_retain_accepted (hhead : ManagerHead s q rest (.mgmtCommand 4 c.val v)) (hidle : (s.chan c).longCmd = none)
    (hstate : (s.chan c).state = .active ∨ (s.chan c).state = .doze) : exec .retain s = .next (((taken s rest).setChan c
      ({ s.chan c with longCmd := record .retain q }.beginDrain s.now .retainPending)).settle c) := by
  have haccepted : acceptedIn .retain (s.chan c).state = true := by rcases hstate with h | h <;> rw [h] <;> decide
  exact congrArg Host.Outcome.next ((serveCommand_accepted hhead rfl hidle haccepted (Or.inl rfl)).trans
    (acceptRetain_eq (taken s rest) q c))

theorem exec_trimLong_accepted (hhead : ManagerHead s q rest (.mgmtCommand 6 c.val v))
    (hidle : (s.chan c).longCmd = none)
    (hstate : (s.chan c).state = .active ∨ (s.chan c).state = .doze ∨ (s.chan c).state = .held) :
    exec .trimLong s = .next (((taken s rest).setChan c
      ({ s.chan c with longCmd := record .trimLong q }.requestLongTrim s.now)).settle c) := by
  have haccepted : acceptedIn .trimLong (s.chan c).state = true := by rcases hstate with h | h | h <;> rw [h] <;> decide
  exact congrArg Host.Outcome.next ((serveCommand_accepted hhead rfl hidle haccepted (Or.inl rfl)).trans
    (acceptTrimLong_eq (taken s rest) q c))

/-- INIT is accepted in a channel whose settings are valid. -/
theorem exec_init_accepted (hhead : ManagerHead s q rest (.mgmtCommand 1 c.val v)) (hidle : (s.chan c).longCmd = none)
    (hstate : (s.chan c).state = .uninit ∨ (s.chan c).state = .held) (hvalid : (s.chan c).settings.invalid = false) :
    exec .init s = .next (acceptInit q c (taken s rest)) := by
  rw [exec_init, serveCommand_accepted (row := .init) hhead rfl hidle ((init_acceptedIn_iff _).2 hstate) (Or.inr hvalid)]

theorem exec_resume_accepted (hhead : ManagerHead s q rest (.mgmtCommand 3 c.val v)) (hidle : (s.chan c).longCmd = none)
    (hstate : (s.chan c).state = .held) (hvalid : (s.chan c).settings.invalid = false) :
    exec .resume s = .next (acceptResume q c (taken s rest)) := by
  rw [exec_resume, serveCommand_accepted (row := .resume) hhead rfl hidle ((resume_acceptedIn_iff _).2 hstate) (Or.inr hvalid)]

theorem exec_wake_accepted (hhead : ManagerHead s q rest (.mgmtCommand 5 c.val v)) (hidle : (s.chan c).longCmd = none)
    (hstate : acceptedIn .wake (s.chan c).state = true) : exec .wake s = .next (acceptWake q c (taken s rest)) :=
  congrArg Host.Outcome.next (serveCommand_accepted hhead rfl hidle hstate (Or.inl rfl))

end Accepted

/-- Settles O38: the three commands are accepted in these states, and each begins as its own definition says, asleep or
awake. -/
theorem holdRetainTrimLongAccepted : Obligations.HoldRetainTrimLongAccepted := by
  intro s q rest c n v hhead hidle
  refine ⟨fun hactive => ⟨?_, ?_, ?_⟩, fun hdoze => ⟨?_, ?_, ?_⟩, fun hheld => ?_⟩
  · rintro rfl
    have hawake : (s.chan c).state ≠ .doze := by rw [hactive]; decide
    rw [exec_hold_accepted hhead hidle (Or.inl hactive), beginDrain_of_awake hawake]
  · rintro rfl
    have hawake : (s.chan c).state ≠ .doze := by rw [hactive]; decide
    rw [exec_retain_accepted hhead hidle (Or.inl hactive), beginDrain_of_awake hawake]
  · rintro rfl
    have hawake : (s.chan c).state ≠ .doze := by rw [hactive]; decide
    rw [exec_trimLong_accepted hhead hidle (Or.inl hactive), requestLongTrim_of_awake hawake]
  · rintro rfl
    rw [exec_hold_accepted hhead hidle (Or.inr hdoze), beginDrain_of_doze hdoze]
    rfl
  · rintro rfl
    rw [exec_retain_accepted hhead hidle (Or.inr hdoze), beginDrain_of_doze hdoze]
    rfl
  · rintro rfl
    rw [exec_trimLong_accepted hhead hidle (Or.inr (Or.inl hdoze)), requestLongTrim_of_doze hdoze]
    rfl
  · rintro rfl
    have hawake : (s.chan c).state ≠ .doze := by rw [hheld]; decide
    rw [exec_trimLong_accepted hhead hidle (Or.inr (Or.inr hheld)), requestLongTrim_of_awake hawake]

/-! ### What every event of a channel ends with (R125, R127) -/

theorem idle_iff (x : Channel) : x.idle = true ↔ AtRest x ∧ x.maint = none ∧ x.shortTrimDue = false ∧
    x.longTrimRequest = false ∧ x.debt ≤ 0 ∧ x.dozeExit.isRunning = false := by
  simp only [Channel.idle, AtRest, Bool.and_eq_true, Bool.not_eq_true', List.isEmpty_iff, Option.isNone_iff_eq_none,
    decide_eq_true_eq, and_assoc]

/-- A channel in which the idle timer runs after a settling (R127). -/
abbrev IdleActive (x : Channel) : Prop := x.state = .active ∧ AtRest x ∧ x.maint = none ∧ x.shortTrimDue = false ∧
  x.longTrimRequest = false ∧ x.debt ≤ 0 ∧ x.dozeExit.isRunning = false ∧ x.settings.idleTimeout ≠ 0

theorem judgeIdle_test_iff (x : Channel) :
    (x.state == .active && x.idle && x.settings.idleTimeout != 0) = true ↔ IdleActive x := by
  simp only [Bool.and_eq_true, beq_iff_eq, idle_iff, bne_iff_ne, IdleActive, and_assoc]

theorem judgeIdle_of_idle {x : Channel} (h : IdleActive x) (now : Nat) : x.judgeIdle now = { x with
    idleTimer := if x.idleTimer.isRunning then x.idleTimer else .running now (now + x.settings.idleTimeout) } := by
  refine (if_pos ((judgeIdle_test_iff x).2 h)).trans ?_
  by_cases hr : x.idleTimer.isRunning = true
  · rw [if_pos hr, if_pos hr]
  · rw [if_neg hr, if_neg hr]
    rfl

theorem judgeIdle_of_not_idle {x : Channel} (h : ¬IdleActive x) (now : Nat) :
    x.judgeIdle now = { x with idleTimer := .stopped } := if_neg (mt (judgeIdle_test_iff x).1 h)

/-- A channel that is neither HOLDING nor ACTIVE only loses its idle timer in a settling. -/
theorem settle_of_elsewhere {s : State} {c : Chan} (hh : (s.chan c).state ≠ .holding) (ha : (s.chan c).state ≠ .active) :
    s.settle c = s.modChan c fun x => { x with idleTimer := .stopped } := by
  have hdrained : (s.chan c).drained = false := Bool.eq_false_iff.2 fun h => hh ((drained_iff _).1 h).1
  rw [settle_of_not_drained hdrained]
  exact congrArg (s.setChan c) (judgeIdle_of_not_idle (fun hi => ha hi.1) s.now)

/-- Settles O39: INIT ends in STARTING, where the settling stops the idle timer alone; RESUME by whether settings wait;
WAKE by the state. -/
theorem initResumeWakeAccepted : Obligations.InitResumeWakeAccepted := by
  intro s q rest c n v hhead hidle
  refine ⟨?_, ?_, ?_⟩
  · rintro rfl hstate hvalid
    rw [exec_init_accepted hhead hidle hstate hvalid]
    have haccept : acceptInit q c (taken s rest) = (((taken s rest).setChan c
        ({ s.chan c with longCmd := record .init q }.enterStarting s.now)).settle c) :=
      congrArg (State.settle · c) (beginLong_modChan (taken s rest) c q .init fun x => x.enterStarting s.now)
    rw [haccept, settle_of_elsewhere (by rw [State.chan_setChan_same]; exact nofun)
      (by rw [State.chan_setChan_same]; exact nofun), State.modChan_setChan]
    rfl
  · rintro rfl hheld hvalid
    rw [exec_resume_accepted hhead hidle hheld hvalid]
    exact ⟨fun hp => congrArg Host.Outcome.next (if_neg (Bool.eq_false_iff.1 hp)),
      fun hp => congrArg Host.Outcome.next (if_pos hp)⟩
  · rintro rfl
    refine ⟨fun hstate => ?_, fun hretained => ?_⟩
    · have haccepted : acceptedIn .wake (s.chan c).state = true := by rcases hstate with h | h <;> rw [h] <;> decide
      have hawake : (s.chan c).state ≠ .retained := by rcases hstate with h | h <;> rw [h] <;> decide
      rw [exec_wake_accepted hhead hidle haccepted]
      exact congrArg Host.Outcome.next (if_neg hawake)
    · rw [exec_wake_accepted hhead hidle (by rw [hretained]; decide)]
      refine congrArg Host.Outcome.next ((if_pos hretained).trans ?_)
      rw [beginLong_modChan]
      rfl

/-- A settling that completes a hold drain ends the HOLD from the channel in HELD. -/
theorem settle_ret_of_drained {s : State} {c : Chan} (h : (s.chan c).drained = true) :
    (s.settle c).ret = ((s.modChan c fun x => { x with state := .held }).endLong c .ok).ret := by
  unfold State.settle
  rw [if_pos h]
  rfl

theorem settle_chan_of_drained {s : State} {c : Chan} (h : (s.chan c).drained = true) : (s.settle c).chan c =
    { s.chan c with state := .held, longCmd := none, idleTimer := .stopped } := by
  rw [settle_chan_same, if_pos h]
  exact judgeIdle_of_not_idle (fun hi => absurd (show ChanState.held = .active from hi.1) (by decide)) s.now

/-- Settles O40: by whether the hold drain is complete, then by whether the channel is idle. -/
theorem settleEndsDrainAndJudgesIdle : Obligations.SettleEndsDrainAndJudgesIdle := by
  rintro s c d x rfl hne
  obtain ⟨hnow, hlink, hintake, hmap, hmgmt, hpending, -, hchan⟩ := settle_frame s c
  refine ⟨hchan d hne, hlink, hintake, hmap, hmgmt, hnow, hpending, fun hd => ?_, fun hd => ?_⟩
  · have hdrained := (drained_iff _).2 hd
    have hheld : ((s.modChan c fun x => { x with state := .held }).chan c).longCmd = (s.chan c).longCmd := by
      rw [State.chan_modChan_same]
    refine ⟨settle_chan_of_drained hdrained, fun r hr ha => ?_, fun hr => ?_⟩
    · rw [settle_ret_of_drained hdrained, endLong_ret_of_answerable (hheld.trans hr) ha]
      rfl
    · rw [settle_ret_of_drained hdrained, endLong_ret_of_unanswerable fun r h => hr r (hheld.symm.trans h)]
      rfl
  · rw [settle_of_not_drained (Bool.eq_false_iff.2 (mt (drained_iff _).1 hd)), State.chan_modChan_same]
    exact ⟨rfl, fun hi => judgeIdle_of_idle hi s.now, fun hi => judgeIdle_of_not_idle hi s.now⟩

/-! ### COMMIT_MAP (R32 to R35) -/

theorem anyPair_iff {α : Type} (f : α → α → Bool) (l : List α) :
    anyPair f l = true ↔ ¬l.Pairwise fun a b => f a b = false := by
  induction l with
  | nil => simp [anyPair]
  | cons a l ih =>
    rw [anyPair, Bool.or_eq_true, ih, List.pairwise_cons, not_and_or]
    simp

theorem anyPair_of_pairwise {α : Type} {f : α → α → Bool} {l : List α} (h : l.Pairwise fun a b => f a b = false) :
    anyPair f l = false := Bool.eq_false_iff.2 fun ha => (anyPair_iff f l).1 ha h

theorem badLayout_iff (r : Region) : r.badLayout = true ↔
    r.base.toNat % 4096 ≠ 0 ∨ (r.limit.toNat + 1) % 4096 ≠ 0 ∨ r.limit < r.base ∨ 3 < r.layout := by
  simp only [Region.badLayout, Bool.or_eq_true, bne_iff_ne, decide_eq_true_eq, or_assoc]

theorem any_badLayout_iff (rs : List Region) : rs.any Region.badLayout = true ↔
    ∃ r ∈ rs, r.base.toNat % 4096 ≠ 0 ∨ (r.limit.toNat + 1) % 4096 ≠ 0 ∨ r.limit < r.base ∨ 3 < r.layout := by
  rw [List.any_eq_true]
  exact exists_congr fun r => and_congr_right fun _ => badLayout_iff r

/-- Two regions that are not empty overlap when they share an address. -/
theorem overlaps_false_iff {r p : Region} (hr : r.base ≤ r.limit) (hp : p.base ≤ p.limit) : r.overlaps p = false ↔
    ¬∃ a : HostAddr, r.base ≤ a ∧ a ≤ r.limit ∧ p.base ≤ a ∧ a ≤ p.limit := by
  rw [← Bool.not_eq_true, Region.overlaps, Bool.and_eq_true, decide_eq_true_eq, decide_eq_true_eq, not_iff_not]
  constructor
  · rintro ⟨hrp, hpr⟩
    by_cases h : r.base ≤ p.base
    · exact ⟨p.base, h, hpr, BitVec.le_refl _, hp⟩
    · exact ⟨r.base, BitVec.le_refl _, hr, BitVec.le_of_lt (BitVec.not_le.1 h), hrp⟩
  · rintro ⟨a, h1, h2, h3, h4⟩
    exact ⟨BitVec.le_trans h1 h4, BitVec.le_trans h3 h2⟩

theorem pairwise_overlaps_iff {rs : List Region} (h : ∀ r ∈ rs, r.base ≤ r.limit) :
    rs.Pairwise (fun r p => r.overlaps p = false) ↔
      rs.Pairwise fun r p => ¬∃ a : HostAddr, r.base ≤ a ∧ a ≤ r.limit ∧ p.base ≤ a ∧ a ≤ p.limit :=
  List.Pairwise.iff_of_mem fun hr hp => overlaps_false_iff (h _ hr) (h _ hp)

theorem beyondRows_iff (ls : Vector Layout 4) (r : Region) (c : Chan) (rows : Nat) : beyondRows ls r c rows = true ↔
    ∃ lo hi, footprint ls r c = some (lo, hi) ∧ rows ≤ hi := by
  unfold beyondRows
  cases footprint ls r c with
  | none => simp
  | some p =>
    obtain ⟨lo, hi⟩ := p
    simp

theorem mem_chanIxs : ∀ c : Chan, c ∈ chanIxs := by decide

theorem outOfRows_iff (s : State) (rs : List Region) : s.outOfRows rs = true ↔ ∃ r ∈ rs, ∃ (c : Chan) (lo hi : Nat),
    footprint s.map.shadowLayouts r c = some (lo, hi) ∧ (s.chan c).settings.rowsPerBank ≤ hi := by
  unfold State.outOfRows
  simp only [List.any_eq_true, beyondRows_iff, mem_chanIxs, true_and]

theorem aliased_pair_false_iff (ls : Vector Layout 4) (r p : Region) :
    (chanIxs.any fun c => aliasesOn ls r p c) = false ↔ ∀ c : Chan, aliasesOn ls r p c = false := by
  rw [List.any_eq_false]
  exact ⟨fun h c => Bool.eq_false_iff.2 (h c (mem_chanIxs c)), fun h c _ => Bool.eq_false_iff.1 (h c)⟩

theorem pairwise_aliased_iff (ls : Vector Layout 4) (rs : List Region) :
    rs.Pairwise (fun r p => (chanIxs.any fun c => aliasesOn ls r p c) = false) ↔
      rs.Pairwise fun r p => ∀ c : Chan, aliasesOn ls r p c = false :=
  List.Pairwise.iff_of_mem fun _ _ => aliased_pair_false_iff ls _ _

section Commit

variable {s : State} {q : QueuedPacket} {rest : List QueuedPacket} {ch : Nat} {v : Option Word32}

/-- COMMIT_MAP is judged on the tables as they stand, and its answer is the judgment. -/
theorem exec_commitMap (h : ManagerHead s q rest (.mgmtCommand 16 ch v)) : exec .commitMap s = .next
    ((if s.judgeCommit = .ok then (taken s rest).commitMap else taken s rest).answerCode q s.judgeCommit) :=
  congrArg Host.Outcome.next (serveCommand_of_manager h rfl _)

theorem exec_commitMap_refused (h : ManagerHead s q rest (.mgmtCommand 16 ch v)) {code : MgmtCode}
    (hj : s.judgeCommit = code) (hc : code ≠ .ok) :
    exec .commitMap s = .next (answered s q rest (.mgmtResp code none)) := by
  rw [exec_commitMap h, hj, if_neg hc, answerCode_taken]

/-- A notice is raised alike before and after the head is taken. -/
theorem taken_raiseNotice (s : State) (rest : List QueuedPacket) (n : Notice) :
    (taken s rest).raiseNotice n = taken (s.raiseNotice n) rest := by
  by_cases h1 : (noticeEnabled s.mgmt.settings.noticeEnable n.kind && !(s.mgmt.notices.any n.samePair)) = true
  · by_cases h2 : s.mgmt.notices.isEmpty = true
    · simp only [State.raiseNotice, taken_mgmt, h1, h2, if_true]
      rfl
    · simp only [State.raiseNotice, taken_mgmt, h1, h2, if_true]
      rfl
  · simp only [State.raiseNotice, taken_mgmt, h1]
    rfl

/-- The map after a commit. -/
abbrev committed (s : State) : State := s.modMap MapUnit.commit

theorem commitMap_eq (s : State) : s.commitMap = if s.map.current = 0
    then (committed s).raiseNotice ⟨.mapDrained, none, BitVec.ofNat 32 s.map.epoch.toNat⟩ else committed s := by
  have hepoch : s.map.epoch + 1 - 1 = s.map.epoch := BitVec.add_sub_cancel ..
  have hraise : (committed s).raiseDrained =
      (committed s).raiseNotice ⟨.mapDrained, none, BitVec.ofNat 32 s.map.epoch.toNat⟩ := by
    rw [← hepoch]
    rfl
  rw [← hraise]
  rfl

theorem taken_commitMap (s : State) (rest : List QueuedPacket) : (taken s rest).commitMap = taken s.commitMap rest := by
  rw [commitMap_eq, commitMap_eq]
  by_cases h : s.map.current = 0
  · have htaken : (taken s rest).map.current = 0 := h
    rw [if_pos h, if_pos htaken]
    exact taken_raiseNotice (committed s) rest _
  · have htaken : ¬(taken s rest).map.current = 0 := h
    rw [if_neg h, if_neg htaken]
    rfl

theorem exec_commitMap_ok (h : ManagerHead s q rest (.mgmtCommand 16 ch v)) (hj : s.judgeCommit = .ok) :
    exec .commitMap s = .next (answered s.commitMap q rest (.mgmtResp .ok none)) := by
  rw [exec_commitMap h, hj, if_pos rfl, taken_commitMap, answerCode_taken]

/-- A commit changes the map, the notices and the wait count. -/
theorem commitMap_blocks (s : State) : s.commitMap.map = s.map.commit ∧ s.commitMap.ret.queue = s.ret.queue ∧
    s.commitMap.chans = s.chans ∧ s.commitMap.intake = s.intake ∧ (s.map.current ≠ 0 → s.commitMap.mgmt = s.mgmt) := by
  rw [commitMap_eq]
  by_cases h : s.map.current = 0
  · rw [if_pos h, raiseNotice_map, raiseNotice_queue, raiseNotice_chans, raiseNotice_intake]
    exact ⟨rfl, rfl, rfl, rfl, fun hne => absurd h hne⟩
  · rw [if_neg h]
    exact ⟨rfl, rfl, rfl, rfl, fun _ => rfl⟩

/-- With nothing outstanding, the epoch before has drained at the commit itself (R39). -/
theorem commitMap_drained (h : s.map.current = 0) (hempty : s.mgmt.notices = [])
    (henable : s.mgmt.settings.noticeEnable.testBit 3 = true) :
    s.commitMap.mgmt.notices = [⟨.mapDrained, none, BitVec.ofNat 32 s.map.epoch.toNat⟩] := by
  rw [commitMap_eq, if_pos h]
  exact (raiseNotice_of_first (s := committed s) (n := ⟨.mapDrained, none, _⟩) hempty henable).1

end Commit

/-! The judgment of COMMIT_MAP, condition by condition in the order of R32. -/

section Judgment

variable {s : State}

theorem judgeCommit_busy (h : s.map.previous ≠ 0) : s.judgeCommit = .busy := if_pos h

theorem judgeCommit_badLayout (h0 : s.map.previous = 0)
    (h1 : (validRegions s.map.shadowRegions).any Region.badLayout = true) : s.judgeCommit = .badLayout :=
  (if_neg (not_not_intro h0)).trans (if_pos h1)

theorem judgeCommit_overlap (h0 : s.map.previous = 0)
    (h1 : (validRegions s.map.shadowRegions).any Region.badLayout = false)
    (h2 : anyPair Region.overlaps (validRegions s.map.shadowRegions) = true) : s.judgeCommit = .overlap :=
  (if_neg (not_not_intro h0)).trans ((if_neg (Bool.eq_false_iff.1 h1)).trans (if_pos h2))

theorem judgeCommit_outOfRows (h0 : s.map.previous = 0)
    (h1 : (validRegions s.map.shadowRegions).any Region.badLayout = false)
    (h2 : anyPair Region.overlaps (validRegions s.map.shadowRegions) = false)
    (h3 : s.outOfRows (validRegions s.map.shadowRegions) = true) : s.judgeCommit = .outOfRows :=
  (if_neg (not_not_intro h0)).trans ((if_neg (Bool.eq_false_iff.1 h1)).trans
    ((if_neg (Bool.eq_false_iff.1 h2)).trans (if_pos h3)))

theorem judgeCommit_of_rows (h0 : s.map.previous = 0)
    (h1 : (validRegions s.map.shadowRegions).any Region.badLayout = false)
    (h2 : anyPair Region.overlaps (validRegions s.map.shadowRegions) = false)
    (h3 : s.outOfRows (validRegions s.map.shadowRegions) = false) :
    s.judgeCommit = if s.aliased (validRegions s.map.shadowRegions) = true then .alias_ else .ok :=
  (if_neg (not_not_intro h0)).trans ((if_neg (Bool.eq_false_iff.1 h1)).trans
    ((if_neg (Bool.eq_false_iff.1 h2)).trans (if_neg (Bool.eq_false_iff.1 h3))))

end Judgment

/-- Settles O41: the conditions in their order, each against its test; then what the commit itself changes. -/
theorem commitMapChecksAndCommits : Obligations.CommitMapChecksAndCommits := by
  rintro s q rest ch v rs u hhead rfl rfl
  refine ⟨fun hp => exec_commitMap_refused hhead (judgeCommit_busy hp) (by decide), fun hp => ⟨fun hbad => ?_,
    fun hgood => ?_⟩⟩
  · exact exec_commitMap_refused hhead (judgeCommit_badLayout hp ((any_badLayout_iff _).2 hbad)) (by decide)
  have hlayout : (validRegions s.map.shadowRegions).any Region.badLayout = false := by
    refine Bool.eq_false_iff.2 fun h => ?_
    obtain ⟨r, hr, hbad⟩ := (any_badLayout_iff _).1 h
    obtain ⟨hbase, hlimit, hle, h3⟩ := hgood r hr
    rcases hbad with hbad | hbad | hbad | hbad
    · exact hbad hbase
    · exact hbad hlimit
    · exact BitVec.not_le.2 hbad hle
    · exact absurd h3 (not_le.2 hbad)
  have hoverlap := pairwise_overlaps_iff fun r hr => (hgood r hr).2.2.1
  refine ⟨fun hshare => ?_, fun hapart => ⟨fun hout => ?_, fun hrows => ?_⟩⟩
  · exact exec_commitMap_refused hhead
      (judgeCommit_overlap hp hlayout ((anyPair_iff _ _).2 fun h => hshare (hoverlap.1 h))) (by decide)
  · exact exec_commitMap_refused hhead (judgeCommit_outOfRows hp hlayout (anyPair_of_pairwise (hoverlap.2 hapart))
      ((outOfRows_iff _ _).2 hout)) (by decide)
  have hin : s.outOfRows (validRegions s.map.shadowRegions) = false := by
    refine Bool.eq_false_iff.2 fun h => ?_
    obtain ⟨r, hr, c, lo, hi, hfoot, hle⟩ := (outOfRows_iff _ _).1 h
    exact absurd (hrows r hr c lo hi hfoot) (not_lt.2 hle)
  have hjudge := judgeCommit_of_rows hp hlayout (anyPair_of_pairwise (hoverlap.2 hapart)) hin
  refine ⟨fun hshare => ?_, fun hfree => ?_⟩
  · have haliased : s.aliased (validRegions s.map.shadowRegions) = true :=
      (anyPair_iff _ _).2 fun h => hshare ((pairwise_aliased_iff _ _).1 h)
    exact exec_commitMap_refused hhead (hjudge.trans (if_pos haliased)) (by decide)
  · have hfree : s.aliased (validRegions s.map.shadowRegions) = false :=
      anyPair_of_pairwise ((pairwise_aliased_iff _ _).2 hfree)
    have hok := hjudge.trans (if_neg (Bool.eq_false_iff.1 hfree))
    obtain ⟨hmap, hqueue, hchans, hintake, hmgmt⟩ := commitMap_blocks s
    refine ⟨_, exec_commitMap_ok hhead hok, hmap, ?_, ?_, hmgmt, commitMap_drained, hchans, ?_⟩
    · rw [← hqueue]
      rfl
    · rw [commitMap_eq]
      rfl
    · rw [← hintake]
      rfl

/-! ### CLEAR_FAULT and CLEAR_COUNTERS (R156, R165) -/

theorem clearCounters_chan (s : State) (n : Nat) (c : Chan) : (s.clearCounters n).chan c =
    if n.testBit c.val = true then (s.chan c).clearCounters else s.chan c := by
  unfold State.clearCounters
  match c with
  | 0 =>
    by_cases h0 : n.testBit 0 = true <;> by_cases h1 : n.testBit 1 = true <;> simp [h0, h1, State.chan_modChan]
  | 1 =>
    by_cases h0 : n.testBit 0 = true <;> by_cases h1 : n.testBit 1 = true <;> simp [h0, h1, State.chan_modChan]

/-- The counters belong to the channels. -/
theorem clearCounters_chans (s : State) (n : Nat) : ∃ cs, s.clearCounters n = { s with chans := cs } := by
  unfold State.clearCounters
  dsimp only
  split
  · split
    · exact ⟨_, rfl⟩
    · exact ⟨_, rfl⟩
  · split
    · exact ⟨_, rfl⟩
    · exact ⟨_, rfl⟩

theorem counterSet_of_value {w : Word32} (h : 1 ≤ w.toNat ∧ w.toNat ≤ 3) : counterSet (some w) = some w.toNat := if_pos h

theorem counterSet_of_bad {w : Word32} (h : ¬(1 ≤ w.toNat ∧ w.toNat ≤ 3)) : counterSet (some w) = none := if_neg h

section Clear

variable {s : State} {q : QueuedPacket} {rest : List QueuedPacket} {ch : Nat} {v : Option Word32}

theorem exec_clearCounters_bad (hhead : ManagerHead s q rest (.mgmtCommand 19 ch v)) (h : counterSet v = none) :
    exec .clearCounters s = .next (answered s q rest (.mgmtResp .badValue none)) := by
  refine congrArg Host.Outcome.next ((serveCommand_of_manager hhead rfl _).trans ?_)
  rw [h]
  rfl

theorem exec_clearCounters_ok (hhead : ManagerHead s q rest (.mgmtCommand 19 ch v)) {n : Nat} (h : counterSet v = some n) :
    exec .clearCounters s = .next (((taken s rest).clearCounters n).answerCode q .ok) := by
  refine congrArg Host.Outcome.next ((serveCommand_of_manager hhead rfl _).trans ?_)
  rw [h]

end Clear

/-- Settles O43: CLEAR_FAULT by computation; CLEAR_COUNTERS by its argument, the bit of each channel naming it. -/
theorem clearCommands : Obligations.ClearCommands := by
  intro s q rest ch v
  refine ⟨fun hhead => congrArg Host.Outcome.next (serveCommand_of_manager hhead rfl _), fun hhead => ⟨?_, fun hv => ?_⟩⟩
  · rintro w rfl hw
    exact exec_clearCounters_bad hhead (counterSet_of_bad (by omega))
  obtain ⟨n, hn, hnamed, hbit⟩ : ∃ n, counterSet v = some n ∧ (v = none → n = 3) ∧ ∀ w, v = some w → n = w.toNat := by
    rcases hv with rfl | ⟨w, rfl, h1, h3⟩
    · exact ⟨3, rfl, fun _ => rfl, nofun⟩
    · exact ⟨w.toNat, counterSet_of_value ⟨h1, h3⟩, nofun, fun _ h => by cases h; rfl⟩
  have hchan := clearCounters_chan (taken s rest) n
  refine ⟨_, exec_clearCounters_ok hhead hn, fun c hc => (hchan c).trans (if_pos ?_), fun c w hw hc =>
    (hchan c).trans (if_neg ?_), ?_⟩
  · rcases hc with hc | ⟨w, hw, hc⟩
    · rw [hnamed hc]
      revert c
      decide
    · rw [hbit w hw]
      exact hc
  · rw [hbit w hw]
    exact Bool.eq_false_iff.1 hc
  · obtain ⟨cs, hcs⟩ := clearCounters_chans (taken s rest) n
    rw [hcs]
    rfl

/-! ### FUNCTION_RESET (R159) -/

section FunctionReset

variable {s : State} {q : QueuedPacket} {rest : List QueuedPacket} {ch : Nat} {v : Option Word32}

theorem exec_functionReset_busy (hhead : ManagerHead s q rest (.mgmtCommand 20 ch v))
    (h : (s.chan 0).longCmd ≠ none ∨ (s.chan 1).longCmd ≠ none) :
    exec .functionReset s = .next (answered s q rest (.mgmtResp .busy none)) := by
  have hbusy : ((s.chan 0).longCmd.isSome || (s.chan 1).longCmd.isSome) = true := by
    rw [Bool.or_eq_true, Option.isSome_iff_ne_none, Option.isSome_iff_ne_none]
    exact h
  exact congrArg Host.Outcome.next ((serveCommand_of_manager hhead rfl _).trans (if_pos hbusy))

theorem exec_functionReset_ok (hhead : ManagerHead s q rest (.mgmtCommand 20 ch v))
    (h0 : (s.chan 0).longCmd = none) (h1 : (s.chan 1).longCmd = none) :
    exec .functionReset s = .next ((taken s rest).functionReset q) := by
  have hidle : ¬((s.chan 0).longCmd.isSome || (s.chan 1).longCmd.isSome) = true := by
    rw [h0, h1]
    decide
  exact congrArg Host.Outcome.next ((serveCommand_of_manager hhead rfl _).trans (if_neg hidle))

end FunctionReset

/-- Steps 1 to 3 of R159. -/
abbrev functionCleared (s : State) (q : QueuedPacket) : State := s.clearRecords.resetIntake q

/-- The response of the command is ready, and its stream sends it next, before the channels settle (step 6 of R159). -/
def answeredFirst (s : State) (q : QueuedPacket) : State :=
  (s.modRet fun r => { r with nextToSend := r.nextToSend.set q.packet.stream q.order }).handOver
    ⟨q.packet.stream, q.packet.tag, q.order, .mgmtResp .ok none, true⟩

theorem answeredFirst_frame (s : State) (q : QueuedPacket) : (answeredFirst s q).now = s.now ∧
    (answeredFirst s q).link = s.link ∧ (answeredFirst s q).intake = s.intake ∧ (answeredFirst s q).map = s.map ∧
    (answeredFirst s q).mgmt = s.mgmt ∧ (answeredFirst s q).pending = s.pending ∧
    (∀ c, (answeredFirst s q).chan c = s.chan c) ∧ (answeredFirst s q).ret = { s.ret with
      queue := s.ret.queue ++ [⟨q.packet.stream, q.packet.tag, q.order, .mgmtResp .ok none, true⟩]
      nextToSend := s.ret.nextToSend.set q.packet.stream q.order } :=
  ⟨rfl, rfl, rfl, rfl, rfl, rfl, fun _ => rfl, rfl⟩

theorem functionReset_eq (s : State) (q : QueuedPacket) :
    s.functionReset q =
      (answeredFirst ((((functionCleared s q).discardPool 0).discardPool 1).emptyReturn) q).settleAll := rfl

/-- Steps 1 to 3 of R159 leave the time, the Return Unit and the map. -/
theorem functionCleared_frame (s : State) (q : QueuedPacket) : (functionCleared s q).now = s.now ∧
    (functionCleared s q).pending = s.pending ∧ (functionCleared s q).ret = s.ret ∧ (functionCleared s q).map = s.map ∧
    (functionCleared s q).link = { s.link with owed := s.link.owed + s.intake.queue.length } ∧
    (functionCleared s q).mgmt = { s.mgmt with notices := [], fault := none } ∧
    (functionCleared s q).intake.queue = [] ∧
    (functionCleared s q).intake.tags = [(q.packet.stream, q.packet.tag)] := by
  unfold functionCleared State.clearRecords
  rw [clearCounters_both]
  exact ⟨rfl, rfl, rfl, rfl, rfl, rfl, rfl, rfl⟩

theorem functionCleared_flushes (s : State) (q : QueuedPacket) (i : StreamIx) :
    ((functionCleared s q).stream i).flushes = [] := by
  rw [resetIntake_stream]

/-- What FUNCTION_RESET leaves of the blocks, from the state in which its packet has been taken. -/
theorem functionReset_blocks {s : State} {q : QueuedPacket} (hidle : ∀ c, (s.chan c).longCmd = none) :
    Retired (functionCleared s q) (s.functionReset q) ∧ (s.functionReset q).now = s.now ∧
    (s.functionReset q).pending = s.pending ∧ (s.functionReset q).link = (functionCleared s q).link ∧
    (s.functionReset q).intake = (functionCleared s q).intake ∧
    (s.functionReset q).ret.queue = [⟨q.packet.stream, q.packet.tag, q.order, .mgmtResp .ok none, true⟩] ∧
    (s.functionReset q).ret.nextToSend[q.packet.stream] = q.order ∧
    (∀ j : StreamIx, j ≠ q.packet.stream → (s.functionReset q).ret.nextToSend[j] = 0) ∧
    (s.functionReset q).ret.noticeWait = 0 ∧ SlotsReset s (s.functionReset q) := by
  obtain ⟨hret, hnow, hlink, hintake, hpending, hqueue, hwait, hnext, hslots, hc⟩ :=
    discards_frame (functionCleared_flushes s q)
  have hlong : ∀ c, ((((functionCleared s q).discardPool 0).discardPool 1).emptyReturn.chan c).longCmd = none := by
    intro c
    rw [(hc c).2, resetIntake_chan]
    exact hidle c
  have hpool : ∀ c, ((functionCleared s q).chan c).pool = (s.chan c).pool := fun c => by rw [resetIntake_chan]; rfl
  obtain ⟨cnow, cpending, cret, -⟩ := functionCleared_frame s q
  have hslots := slotsReset_congr hpool (congrArg ReturnUnit.slots cret) rfl hslots
  rw [functionReset_eq]
  generalize (((functionCleared s q).discardPool 0).discardPool 1).emptyReturn = u at *
  obtain ⟨mnow, mlink, mintake, mmap, mmgmt, mpending, mchan, mret⟩ := answeredFirst_frame u q
  obtain ⟨know, klink, kintake, kmap, kmgmt, kpending, -⟩ := settleAll_frame (answeredFirst u q)
  have hr : (answeredFirst u q).settleAll.ret = (answeredFirst u q).ret := by
    refine settleAll_ret_of_unanswerable fun c r h => ?_
    rw [mchan, hlong] at h
    cases h
  rw [hr, mret]
  refine ⟨hret.trans (Retired.of_eq (kmap.trans mmap) (kmgmt.trans mmgmt)), know.trans (mnow.trans (hnow.trans cnow)),
    kpending.trans (mpending.trans (hpending.trans cpending)), klink.trans (mlink.trans hlink),
    kintake.trans (mintake.trans hintake), ?_, Vector.getElem_set_self _, fun j hj => ?_, hwait, ?_⟩
  · rw [hqueue]
    rfl
  · exact (Vector.getElem_set_ne q.packet.stream.isLt j.isLt fun h => hj (Fin.ext h.symm)).trans (hnext j)
  · exact slotsReset_congr (fun _ => rfl) rfl (by rw [hr, mret]) hslots

/-- What FUNCTION_RESET makes of a channel. -/
theorem functionReset_chan (s : State) (q : QueuedPacket) (c : Chan) :
    (∀ b : BankIx, ((s.functionReset q).chan c).bank b =
      bankEmptied ((s.chan c).bank b) s.now (s.chan c).settings.rowHold) ∧
    ((s.functionReset q).chan c).writeBurst = (s.chan c).writeBurst.map (burstAtReset s.ret.queue c) ∧
    (s.functionReset q).chan c = ((s.setChan c { s.chan c with
      pool := [], banks := ((s.functionReset q).chan c).banks, writeBurst := ((s.functionReset q).chan c).writeBurst
      counters := ⟨0, 0, 0, 0, 0, 0, 0, 0, 0⟩ }).settle c).chan c := by
  obtain ⟨-, hnow, -, -, -, -, -, -, -, hc⟩ := discards_frame (functionCleared_flushes s q)
  obtain ⟨hbank, hchan⟩ := hc c
  obtain ⟨cnow, -, cret, -⟩ := functionCleared_frame s q
  rw [resetIntake_chan, cret] at hchan
  rw [resetIntake_chan, cnow] at hbank
  rw [functionReset_eq]
  generalize (((functionCleared s q).discardPool 0).discardPool 1).emptyReturn = u at *
  obtain ⟨mnow, -, -, -, -, -, mchan, -⟩ := answeredFirst_frame u q
  have hsettle : (answeredFirst u q).settleAll.chan c = ((answeredFirst u q).settle c).chan c := settleAll_chan _ c
  obtain ⟨hbanks, hburst, -, -⟩ := settle_chan_frame (answeredFirst u q) c
  rw [← hsettle, mchan] at hbanks hburst
  refine ⟨fun b => ?_, ?_, ?_⟩
  · rw [Channel.bank, hbanks]
    exact hbank b
  · rw [hburst]
    exact congrArg Channel.writeBurst hchan
  · rw [hbanks, hburst, hsettle]
    refine settle_chan_congr ?_ (mnow.trans (hnow.trans cnow))
    rw [State.chan_setChan_same, mchan]
    exact hchan.trans (by rw [hchan]; rfl)

/-- Settles O44: the discards are those of a link reset; no long command is left for the settling to answer. -/
theorem functionResetClearsRequestSide : Obligations.FunctionResetClearsRequestSide := by
  intro s q rest ch v hhead
  refine ⟨exec_functionReset_busy hhead, fun h0 h1 => ?_⟩
  have hidle : ∀ c, ((taken s rest).chan c).longCmd = none := Fin.forall_fin_two.2 ⟨h0, h1⟩
  obtain ⟨hret, hnow, hpending, hlink, hintake, hqueue, hnext, hothers, hwait, hslots⟩ := functionReset_blocks (q := q) hidle
  obtain ⟨hmap, -, hmgmt, hsame, hdrained⟩ := hret
  refine ⟨_, exec_functionReset_ok hhead h0 h1, hnow, hpending, hqueue, hnext, hothers, hwait, hslots, ?_, ?_, fun j => ?_,
    hlink, hmgmt, fun hquiet => ?_, fun hp hp' he => ?_, hmap, fun c => ?_⟩
  · rw [hintake]; rfl
  · rw [hintake]; rfl
  · rw [State.stream, hintake]
    exact resetIntake_stream (taken s rest) q j
  · by_cases hp : s.map.previous = 0 ∨ ((taken s rest).functionReset q).map.previous ≠ 0
    · exact hsame hp
    · simp only [not_or, ne_eq, not_not] at hp
      obtain ⟨hp, hp'⟩ := hp
      have hoff : s.mgmt.settings.noticeEnable.testBit 3 = false :=
        (hquiet.resolve_left hp).resolve_left (not_not_intro hp')
      rw [hdrained hp hp']
      exact congrArg (·.mgmt.notices) (raiseNotice_of_disabled (s := functionCleared (taken s rest) q)
        (n := ⟨.mapDrained, none, _⟩) hoff)
  · rw [hdrained hp hp']
    exact (raiseNotice_of_first (s := functionCleared (taken s rest) q) (n := ⟨.mapDrained, none, _⟩) rfl he).1
  · obtain ⟨hbank, hburst, hwhole⟩ := functionReset_chan (taken s rest) q c
    refine ⟨hbank, hburst, hwhole.trans (settle_chan_congr ?_ rfl)⟩
    rw [State.chan_setChan_same, State.chan_setChan_same]
    rfl

end Sys2Proof.Proofs
end

section
/-! The DRAM commands as the selector grants them: OPEN and CLOSE (O45), the column commands (O46), maintenance (O47). -/

namespace Sys2Proof.Proofs

-- One proof after the other, in the memory that the check allows.
set_option Elab.async false

open Sys2Proof Sys2Proof.Machine Sys2Proof.Safety Sys2Proof.Laws

/-! ### What each command does at its grant -/

section Granted

variable {s : State} {c : Chan}

theorem exec_openRow_granted {b : BankIx} {row : Nat} (h : s.grant c = some (.openRow b row)) :
    exec (.openRow c) s = .next (s.issueOn c fun x => x.issueOpen s.now b row) := by
  show Host.Outcome.next _ = _
  rw [h]

theorem exec_closeBank_granted {b : BankIx} (h : s.grant c = some (.closeBank b)) :
    exec (.closeBank c) s = .next (s.issueOn c fun x => x.issueClose s.now b) := by
  show Host.Outcome.next _ = _
  rw [h]

theorem exec_readColumn_granted {i : Nat} {e : PoolEntry} {j : SlotIx} (h : s.grant c = some (.column i))
    (he : (s.chan c).pool[i]? = some e) (hk : e.kind = .read j) (cs : List CellChange) :
    exec (.readColumnCommand c cs) s =
      .next (s.issueOn c fun x => (x.issueColumn s.now i e).issueRead c s.now e j cs) := by
  show Host.Outcome.next _ = _
  rw [h]
  dsimp only
  rw [he]
  dsimp only
  rw [hk]

theorem exec_writeColumn_granted {i : Nat} {e : PoolEntry} {data : Line} {enable : BitVec 8}
    (h : s.grant c = some (.column i)) (he : (s.chan c).pool[i]? = some e) (hk : e.kind = .write data enable) :
    exec (.writeColumnCommand c) s = .next
      ((s.issueOn c fun x => (x.issueColumn s.now i e).issueWrite s.now e data enable).reportIssue c e) := by
  show Host.Outcome.next _ = _
  rw [h]
  dsimp only
  rw [he]
  dsimp only
  rw [hk]

theorem exec_refresh_granted {p : Bool} (h : s.grant c = some (.refresh p)) :
    exec (.refresh c) s = .next (s.issueOn c fun x => x.issueRefresh s.now p) := by
  show Host.Outcome.next _ = _
  rw [h]

theorem exec_shortTrim_granted (h : s.grant c = some .shortTrim) :
    exec (.shortTrim c) s = .next (s.issueOn c fun x => x.issueShortTrim s.now) := by
  show Host.Outcome.next _ = _
  rw [h]

theorem exec_longTrim_granted (h : s.grant c = some .longTrim) :
    exec (.longTrim c) s = .next (s.issueOn c fun x => x.issueLongTrim s.now) := by
  show Host.Outcome.next _ = _
  rw [h]

theorem exec_settingsWrite_granted (h : s.grant c = some .settingsWrite) :
    exec (.settingsWriteStep c) s = .next (s.issueOn c fun x => x.issueSettingsWrite s.now) := by
  show Host.Outcome.next _ = _
  rw [h]

theorem exec_retentionEntry_granted (h : s.grant c = some .retentionEntry) :
    exec (.retentionEntryStep c) s = .next ((s.issueOn c Channel.enterRetained).endLong c .ok) := by
  show Host.Outcome.next _ = _
  rw [h]

end Granted

/-! ### OPEN and CLOSE -/

theorem issueOn_of_eq {s : State} {c : Chan} {f : Channel → Channel} {y : Channel} (h : f (s.chan c) = y) :
    s.issueOn c f = (s.setChan c y).settle c := by
  subst h
  rfl

theorem issueOpen_eq (x : Channel) (now : Nat) (b : BankIx) (row : Nat) : x.issueOpen now b row = { x with
    banks := x.banks.set b { x.bank b with
      state := .opening row, transition := .running now (now + x.settings.openToAccess)
      openMin := .running now (now + x.settings.openMin)
      openCycle := .running now (now + x.settings.openCycle), holdExpired := false, columnSinceOpen := false }
    openSpacing := .running now (now + x.settings.openSpacing)
    window := x.window ++ [⟨now, now + x.settings.windowTime⟩]
    counters := { x.counters with opens := bump x.counters.opens }
    lastCommand := some (.openRow b row) } := rfl

theorem issueClose_eq {x : Channel} {b : BankIx} {row : Nat} (h : (x.bank b).state = .opened row) (now : Nat) :
    x.issueClose now b = { x with
      banks := x.banks.set b { x.bank b with
        state := .closing row, transition := .running now (now + x.settings.closeTime)
        rowHold := .stopped, holdExpired := false }
      lastCommand := some (.closeBank b) } := by
  have hclose : (x.bank b).close now x.settings = { x.bank b with
      state := .closing row, transition := .running now (now + x.settings.closeTime)
      rowHold := .stopped, holdExpired := false } := by
    unfold Bank.close
    rw [h]
    rfl
  rw [← hclose]
  rfl

/-- Settles O45: the commands' own equations. -/
theorem openAndCloseIssued : Obligations.OpenAndCloseIssued := by
  rintro s c b x k rfl rfl
  refine ⟨fun row h => ?_, fun row h hk => ?_⟩
  · rw [exec_openRow_granted h, issueOn_of_eq (issueOpen_eq ..)]
  · rw [exec_closeBank_granted h, issueOn_of_eq (issueClose_eq hk s.now)]

/-! ### Maintenance -/

section Issue

variable (x : Channel) (now : Nat)

theorem issueRefresh_eq (p : Bool) : x.issueRefresh now p = { x with
    maint := some ⟨.refresh, now + x.settings.refreshTime⟩, lastCommand := some .refresh
    counters := { x.counters with refreshes := bump x.counters.refreshes
                                  pullIns := if p then bump x.counters.pullIns else x.counters.pullIns } } := rfl

theorem issueShortTrim_eq : x.issueShortTrim now = { x with
    maint := some ⟨.shortTrim, now + x.settings.trimShort⟩, lastCommand := some .shortTrim, graceTimer := .stopped
    counters := { x.counters with trims := bump x.counters.trims } } := rfl

theorem issueLongTrim_eq : x.issueLongTrim now = { x with
    maint := some ⟨.longTrim, now + x.settings.trimLong⟩, lastCommand := some .longTrim
    graceTimer := .stopped, trimTimer := .stopped
    counters := { x.counters with trims := bump x.counters.trims } } := rfl

theorem issueSettingsWrite_eq : x.issueSettingsWrite now = { x with
    maint := some ⟨.settingsWrite, now + x.settings.settleTime⟩, lastCommand := some .settingsWrite
    settingsPending := false } := rfl

theorem enterRetained_eq : x.enterRetained = { x with
    state := .retained, debt := 0, urgent := false, interval := .stopped, lastCommand := some .retentionEntry
    trimTimer := .stopped, graceTimer := .stopped, shortTrimDue := false, graceForce := false } := rfl

end Issue

/-- The retention entry leaves a channel that the settling neither ends the drain of nor finds idle. -/
theorem issueOn_enterRetained (s : State) (c : Chan) : s.issueOn c Channel.enterRetained =
    s.setChan c { (s.chan c).enterRetained with idleTimer := .stopped } := by
  rw [issueOn_of_eq rfl, settle_of_elsewhere, State.modChan_setChan]
  · rw [State.chan_setChan_same]
    exact nofun
  · rw [State.chan_setChan_same]
    exact nofun

/-- Settles O47: each operation's own equation; the retention entry ends its long command last. -/
theorem maintenanceIssued : Obligations.MaintenanceIssued := by
  rintro s c x rfl
  refine ⟨fun p h => ?_, fun h => ?_, fun h => ?_, fun h => ?_, fun h => ?_⟩
  · rw [exec_refresh_granted h, issueOn_of_eq (issueRefresh_eq ..)]
  · rw [exec_shortTrim_granted h, issueOn_of_eq (issueShortTrim_eq ..)]
  · rw [exec_longTrim_granted h, issueOn_of_eq (issueLongTrim_eq ..)]
  · rw [exec_settingsWrite_granted h, issueOn_of_eq (issueSettingsWrite_eq ..)]
  refine ⟨_, exec_retentionEntry_granted h, ?_⟩
  rw [issueOn_enterRetained, enterRetained_eq]
  refine ⟨?_, fun r hr ha => ?_, fun hr => ?_, fun d hd => ?_, endLong_link .., endLong_intake .., endLong_map ..,
    endLong_mgmt .., endLong_now .., endLong_pending ..⟩
  · rw [endLong_chan_same, State.chan_setChan_same]
  · exact endLong_ret_of_answerable (by rw [State.chan_setChan_same]; exact hr) ha .ok
  · exact endLong_ret_of_unanswerable (by rw [State.chan_setChan_same]; exact hr) .ok
  · rw [endLong_chan_ne _ _ hd.symm, State.chan_setChan_ne _ _ hd.symm]

/-! ### Column commands -/

/-- A channel with a burst in flight neither ends a drain nor is idle: settling stops its idle timer. -/
theorem settle_of_burst {s : State} {c : Chan} (h : (s.chan c).noBurst = false) :
    s.settle c = s.modChan c fun x => { x with idleTimer := .stopped } := by
  have hdrained : (s.chan c).drained = false := by
    refine Bool.eq_false_iff.2 fun hd => ?_
    obtain ⟨-, ⟨-, hburst, -⟩, -⟩ := (drained_iff _).1 hd
    rw [h] at hburst
    cases hburst
  rw [settle_of_not_drained hdrained]
  refine congrArg (s.setChan c) (judgeIdle_of_not_idle (fun hi => ?_) s.now)
  obtain ⟨-, ⟨-, hburst, -⟩, -⟩ := hi
  rw [h] at hburst
  cases hburst

theorem noBurst_of_issued {x : Channel} (h : x.issued ≠ []) : x.noBurst = false := by
  unfold Channel.noBurst
  rw [List.isEmpty_eq_false_iff.2 h, Bool.and_false, Bool.false_and]

theorem noBurst_of_writeBurst {x : Channel} {w : WriteBurst} (h : x.writeBurst = some w) : x.noBurst = false := by
  unfold Channel.noBurst
  rw [h]
  rfl

theorem issueOn_of_burst {s : State} {c : Chan} {f : Channel → Channel} {y : Channel} (h : f (s.chan c) = y)
    (hb : y.noBurst = false) : s.issueOn c f = s.setChan c { y with idleTimer := .stopped } := by
  rw [issueOn_of_eq h, settle_of_burst (by rw [State.chan_setChan_same]; exact hb), State.modChan_setChan]

/-- What a word of a DRAM holds depends on the contents and on how often they were lost. -/
theorem storedWord_congr {x y : Channel} (hd : x.dram = y.dram) (hg : x.dramGen = y.dramGen) (c : Chan) (a : Nat) :
    x.storedWord c a = y.storedWord c a := by
  unfold Channel.storedWord
  rw [hd, hg]

theorem storedWord_of_lookup {x : Channel} {a : Nat} {w : StoredWord} (h : dramLookup x.dram a = some w) (c : Chan) :
    x.storedWord c a = w := by
  unfold Channel.storedWord
  rw [h]
  rfl

/-- The read of a column command: of the channel, the DRAM, the return timer and the command. -/
theorem issueRead_eq (x : Channel) (c : Chan) (now : Nat) (e : PoolEntry) (j : SlotIx) (cs : List CellChange) :
    x.issueRead c now e j cs = { x with
      dram := (x.applyChanges c e.bank e.row e.col cs).dram
      lastCommand := some (.readColumn e.bank e.col)
      issued := x.issued ++
        [⟨j, (x.applyChanges c e.bank e.row e.col cs).storedLine c e.bank e.row e.col, now + x.settings.readReturn⟩] } := by
  unfold Channel.issueRead
  rw [applyChanges_frame]
  rfl

/-- The write of a column command: of the channel, the DRAM, the bank, the burst and the command. -/
theorem issueWrite_eq (x : Channel) (now : Nat) (e : PoolEntry) (data : Line) (enable : BitVec 8) :
    x.issueWrite now e data enable = { x with
      dram := (x.storeLine e.bank e.row e.col data enable).dram
      banks := x.banks.set e.bank { x.bank e.bank with writeBurst := true }
      lastCommand := some (.writeColumn e.bank e.col)
      writeBurst := some ⟨e.bank, e.stream, e.tag, e.order, e.epoch, false, now + x.settings.burstTime⟩ } := by
  unfold Channel.issueWrite
  rw [storeLine_frame]
  rfl

/-- The bank of a column command after its row_hold has been judged. -/
abbrev columnBank (x : Channel) (now i : Nat) (e : PoolEntry) : Bank :=
  { x.bank e.bank with
    columnSinceOpen := true
    rowHold := if (∃ o ∈ passedOver x.pool i e, o.bank = e.bank) ∨ (x.bank e.bank).rowHold.isRunning
      then (x.bank e.bank).rowHold else .running now (now + x.settings.rowHold) }

/-- The channel after a column command, the read or the write apart. -/
abbrev columnIssued (x : Channel) (now i : Nat) (e : PoolEntry) : Channel :=
  { x with
    pool := passedOver x.pool i e
    banks := x.banks.set e.bank (columnBank x now i e)
    columnSpacing := .running now (now + x.settings.burstTime)
    counters := { x.counters with
      hits := if (x.bank e.bank).columnSinceOpen then bump x.counters.hits else x.counters.hits } }

/-- A granted column command finds its bank OPEN. -/
theorem issueColumn_of_grant {s : State} {c : Chan} {i : Nat} {e : PoolEntry} (h : s.grant c = some (.column i))
    (he : (s.chan c).pool[i]? = some e) :
    (s.chan c).issueColumn s.now i e = columnIssued (s.chan c) s.now i e := by
  obtain ⟨-, -, e', he', helig⟩ := grant_column h
  cases he.symm.trans he'
  obtain ⟨hopen, -⟩ := (columnEligible_iff s (s.chan c) i e).1 helig
  refine issueColumn_eq s.now i ?_
  unfold Bank.isOpen
  rw [hopen]

theorem bank_set_same {x y : Channel} {b : BankIx} {k : Bank} (h : y.banks = x.banks.set b k) : y.bank b = k := by
  unfold Channel.bank
  rw [h]
  exact Vector.getElem_set_self _

theorem bank_set_ne {x y : Channel} {a b : BankIx} {k : Bank} (h : y.banks = x.banks.set a k) (hne : b ≠ a) :
    y.bank b = x.bank b := by
  unfold Channel.bank
  rw [h]
  exact Vector.getElem_set_ne a.isLt b.isLt fun he => hne (Fin.ext he.symm)

/-! WRITE_DONE and the flush lists -/

theorem foldl_handOver {α : Type} (f : α → Response) (l : List α) (s : State) :
    l.foldl (fun t a => t.handOver (f a)) s = { s with ret := { s.ret with queue := s.ret.queue ++ l.map f } } := by
  induction l generalizing s with
  | nil => rw [List.map_nil, List.append_nil]; rfl
  | cons a l ih =>
    rw [List.foldl_cons, ih]
    unfold State.handOver State.modRet
    rw [List.map_cons, List.append_assoc]
    rfl

/-- The flush records of a stream after a write of order number `o`. -/
abbrev loweredFlushes (s : State) (i : StreamIx) (o : OrderNo) : List FlushRecord :=
  (s.stream i).flushes.map (FlushRecord.lower o)

/-- A reported write lowers the counts of its stream's flushes, and answers those that reach zero (R15). -/
theorem reportWrite_eq (s : State) (i : StreamIx) (o : OrderNo) : s.reportWrite i o =
    { (s.modStream i fun x => { x with flushes := flushesLeft (loweredFlushes s i o) }) with
      ret := { s.ret with queue := s.ret.queue ++ ((flushesDone (loweredFlushes s i o)).map
        fun r => ⟨i, r.tag, r.order, .flushDone, false⟩) } } :=
  foldl_handOver (fun r : FlushRecord => ⟨i, r.tag, r.order, .flushDone, false⟩) _ _

/-- A word address names its bank, row, column and word. -/
theorem wordAddress_inj {b b' : BankIx} {row row' col col' : Nat} {w w' : WordIx} (hr : row < 65536) (hr' : row' < 65536)
    (hc : col < 128) (hc' : col' < 128) (h : wordAddress b row col w = wordAddress b' row' col' w') :
    b = b' ∧ row = row' ∧ col = col' ∧ w = w' := by
  unfold wordAddress at h
  have hw := w.isLt
  have hw' := w'.isLt
  refine ⟨Fin.ext ?_, ?_, ?_, Fin.ext ?_⟩ <;> omega

/-- What a granted read leaves of its channel. -/
abbrev readIssued (x : Channel) (c : Chan) (now i : Nat) (e : PoolEntry) (j : SlotIx) (cs : List CellChange) : Channel :=
  { columnIssued x now i e with
    dram := ((columnIssued x now i e).applyChanges c e.bank e.row e.col cs).dram
    lastCommand := some (.readColumn e.bank e.col)
    issued := x.issued ++ [⟨j, ((columnIssued x now i e).applyChanges c e.bank e.row e.col cs).storedLine c
      e.bank e.row e.col, now + x.settings.readReturn⟩]
    idleTimer := .stopped }

theorem exec_readColumn {s : State} {c : Chan} {i : Nat} {e : PoolEntry} {j : SlotIx} (h : s.grant c = some (.column i))
    (he : (s.chan c).pool[i]? = some e) (hk : e.kind = .read j) (cs : List CellChange) :
    exec (.readColumnCommand c cs) s = .next (s.setChan c (readIssued (s.chan c) c s.now i e j cs)) := by
  have hread := issueRead_eq (columnIssued (s.chan c) s.now i e) c s.now e j cs
  rw [← issueColumn_of_grant h he] at hread
  rw [exec_readColumn_granted h he hk, issueOn_of_burst hread
    (noBurst_of_issued (List.append_ne_nil_of_right_ne_nil _ (List.cons_ne_nil _ _))), issueColumn_of_grant h he]

/-- What a granted write leaves of its channel. -/
abbrev writeIssued (x : Channel) (now i : Nat) (e : PoolEntry) (data : Line) (enable : BitVec 8) : Channel :=
  { columnIssued x now i e with
    dram := ((columnIssued x now i e).storeLine e.bank e.row e.col data enable).dram
    banks := x.banks.set e.bank { columnBank x now i e with writeBurst := true }
    lastCommand := some (.writeColumn e.bank e.col)
    writeBurst := some ⟨e.bank, e.stream, e.tag, e.order, e.epoch, false, now + x.settings.burstTime⟩
    idleTimer := .stopped }

theorem issueWrite_columnIssued (x : Channel) (now i : Nat) (e : PoolEntry) (data : Line) (enable : BitVec 8) :
    { (columnIssued x now i e).issueWrite now e data enable with idleTimer := .stopped } =
      writeIssued x now i e data enable := by
  have hbank : (columnIssued x now i e).bank e.bank = columnBank x now i e := bank_set_same (x := x) rfl
  rw [issueWrite_eq, hbank, Vector.set_set]

theorem exec_writeColumn {s : State} {c : Chan} {i : Nat} {e : PoolEntry} {data : Line} {enable : BitVec 8}
    (h : s.grant c = some (.column i)) (he : (s.chan c).pool[i]? = some e) (hk : e.kind = .write data enable) :
    exec (.writeColumnCommand c) s =
      .next ((s.setChan c (writeIssued (s.chan c) s.now i e data enable)).reportIssue c e) := by
  have hburst : ((columnIssued (s.chan c) s.now i e).issueWrite s.now e data enable).noBurst = false := by
    rw [issueWrite_eq]
    exact noBurst_of_writeBurst rfl
  rw [exec_writeColumn_granted h he hk, issueOn_of_burst rfl (by rw [issueColumn_of_grant h he]; exact hburst),
    issueColumn_of_grant h he, issueWrite_columnIssued]

/-- A granted write is handed over as WRITE_DONE and then reported to the Intake. -/
theorem reportIssue_eq (s : State) (c : Chan) (e : PoolEntry) : s.reportIssue c e =
    { (s.modStream e.stream fun x => { x with flushes := flushesLeft (loweredFlushes s e.stream e.order) }) with
      ret := { s.ret with
        queue := s.ret.queue ++ ⟨e.stream, e.tag, e.order, .writeDone e.epoch c, false⟩ ::
          ((flushesDone (loweredFlushes s e.stream e.order)).map
            fun r => ⟨e.stream, r.tag, r.order, .flushDone, false⟩) } } := by
  unfold State.reportIssue
  rw [reportWrite_eq, List.append_cons]
  rfl

theorem reportIssue_frame (s : State) (c : Chan) (e : PoolEntry) :
    (s.reportIssue c e).now = s.now ∧ (s.reportIssue c e).pending = s.pending ∧ (s.reportIssue c e).link = s.link ∧
    (s.reportIssue c e).map = s.map ∧ (s.reportIssue c e).mgmt = s.mgmt ∧
    (s.reportIssue c e).intake.queue = s.intake.queue ∧ (s.reportIssue c e).intake.tags = s.intake.tags ∧
    (∀ d, (s.reportIssue c e).chan d = s.chan d) ∧
    (s.reportIssue c e).stream e.stream =
      { s.stream e.stream with flushes := flushesLeft (loweredFlushes s e.stream e.order) } ∧
    (∀ j, j ≠ e.stream → (s.reportIssue c e).stream j = s.stream j) ∧
    (s.reportIssue c e).ret = { s.ret with
      queue := s.ret.queue ++ ⟨e.stream, e.tag, e.order, .writeDone e.epoch c, false⟩ ::
        ((flushesDone (loweredFlushes s e.stream e.order)).map
          fun r => ⟨e.stream, r.tag, r.order, .flushDone, false⟩) } := by
  have hstream : ∀ j, (s.reportIssue c e).stream j = (s.modStream e.stream fun x => { x with
      flushes := flushesLeft (loweredFlushes s e.stream e.order) }).stream j := fun j => by
    rw [reportIssue_eq]
    rfl
  have h := reportIssue_eq s c e
  refine ⟨(congrArg State.now h).trans rfl, (congrArg State.pending h).trans rfl, (congrArg State.link h).trans rfl,
    (congrArg State.map h).trans rfl, (congrArg State.mgmt h).trans rfl, (congrArg (·.intake.queue) h).trans rfl,
    (congrArg (·.intake.tags) h).trans rfl, fun d => (congrArg (State.chan · d) h).trans rfl, ?_, fun j hj => ?_,
    (congrArg State.ret h).trans rfl⟩
  · rw [hstream, State.stream_modStream, if_pos rfl]
  · rw [hstream, State.stream_modStream, if_neg hj.symm]

section Column

variable {x : Channel} {now i : Nat} {e : PoolEntry}

theorem readIssued_bank (c : Chan) (j : SlotIx) (cs : List CellChange) :
    (readIssued x c now i e j cs).bank e.bank = columnBank x now i e := bank_set_same (x := x) rfl

theorem writeIssued_bank (data : Line) (enable : BitVec 8) :
    (writeIssued x now i e data enable).bank e.bank = { columnBank x now i e with writeBurst := true } :=
  bank_set_same (x := x) rfl

/-- The words that a read returns are those that stand in its line after the changes it finds. -/
theorem readIssued_word (c : Chan) (j : SlotIx) (cs : List CellChange) (w : WordIx) :
    (((columnIssued x now i e).applyChanges c e.bank e.row e.col cs).storedLine c e.bank e.row e.col)[w] =
      (readIssued x c now i e j cs).storedWord c (wordAddress e.bank e.row e.col w) := by
  have hgen : ((columnIssued x now i e).applyChanges c e.bank e.row e.col cs).dramGen = x.dramGen := by
    rw [applyChanges_frame]
  rw [storedLine_word]
  exact storedWord_congr (x := (columnIssued x now i e).applyChanges c e.bank e.row e.col cs)
    (y := readIssued x c now i e j cs) rfl hgen c _

end Column

/-- Settles O46: each command's own equation; of the words, the store and the changes as the library's lemmas say. -/
theorem columnCommandsIssued : Obligations.ColumnCommandsIssued := by
  rintro s c d i e x k rfl rfl hgrant he hne
  refine ⟨fun j cs hk => ?_, fun data enable hk => ?_, fun a w h => storedWord_of_lookup h c,
    fun b b' row row' col col' w w' hr hr' hc hc' => wordAddress_inj hr hr' hc hc'⟩
  · refine ⟨_, exec_readColumn hgrant he hk cs, ?_⟩
    rw [State.chan_setChan_same, readIssued_bank]
    refine ⟨rfl, rfl, rfl, fun b hb => bank_set_ne (x := s.chan c) rfl hb,
      ⟨_, rfl, fun w => readIssued_word c j cs w, fun hcs w => ?_⟩, fun a ha => dramLookup_applyChanges_other ha,
      fun older ch newer hcs hw => ?_, fun hcs => ?_, rfl, rfl, State.chan_setChan_ne _ _ hne, rfl, rfl, rfl, rfl, rfl⟩
    · subst hcs
      exact storedLine_word ..
    · subst hcs
      exact dramLookup_applyChanges (columnIssued (s.chan c) s.now i e) hw
    · subst hcs
      rfl
  · refine ⟨_, exec_writeColumn hgrant he hk, ?_⟩
    obtain ⟨hnow, hpending, hlink, hmap, hmgmt, hqueue, htags, hchan, hstream, hothers, hret⟩ :=
      reportIssue_frame (s.setChan c (writeIssued (s.chan c) s.now i e data enable)) c e
    generalize (s.setChan c (writeIssued (s.chan c) s.now i e data enable)).reportIssue c e = t at *
    have hsame : t.chan c = writeIssued (s.chan c) s.now i e data enable :=
      (hchan c).trans (State.chan_setChan_same ..)
    rw [hsame, writeIssued_bank, hstream, hret]
    exact ⟨rfl, rfl, rfl, fun b hb => bank_set_ne (x := s.chan c) rfl hb,
      fun w hw => dramLookup_storeLine _ _ _ _ _ hw, fun a ha => dramLookup_storeLine_other _ _ _ _ _ ha, rfl, rfl,
      hothers, hnow, hpending, rfl, rfl, (hchan d).trans (State.chan_setChan_ne _ _ hne), hlink, hqueue, htags, hmap,
      hmgmt⟩

end Sys2Proof.Proofs
end

section
/-! What the command selector grants: the serving commands (O48) and maintenance (O49). -/

namespace Sys2Proof.Proofs

-- One proof after the other, in the memory that the check allows.
set_option Elab.async false

open Sys2Proof Sys2Proof.Machine Sys2Proof.Safety Sys2Proof.Laws

/-! ### The conditions of a serving grant -/

theorem force_false_iff (x : Channel) :
    x.force = false ↔ x.urgent = false ∧ x.graceForce = false ∧ x.longTrimRequest = false := by
  simp only [Channel.force, Bool.or_eq_false_iff, and_assoc]

/-- The maintenance grants, each with the condition of its rule. -/
theorem maintGrant_reason {x : Channel} {g : Grant} (h : x.maintGrant = some g) :
    (g = .refresh false ∧ UrgentMay x) ∨ (g = .settingsWrite ∧ SettingsMay x) ∨ (g = .retentionEntry ∧ RetentionMay x) ∨
    (g = .longTrim ∧ LongTrimMay x) ∨ (g = .shortTrim ∧ ShortTrimMay x) ∨ (g = .refresh false ∧ NonUrgentMay x) ∨
    (g = .refresh true ∧ PullInMay x) := by
  rw [← urgentMay_iff, ← settingsMay_iff, ← retentionMay_iff, ← longTrimMay_iff, ← shortTrimMay_iff, ← nonUrgentMay_iff,
    ← pullInMay_iff]
  simp only [Bool.and_eq_true, Bool.not_eq_true']
  exact maintGrant_cases h

theorem maintGrant_maintenance {x : Channel} {g : Grant} (h : x.maintGrant = some g) : IsMaintenance g := by
  rcases maintGrant_reason h with ⟨rfl, -⟩ | ⟨rfl, -⟩ | ⟨rfl, -⟩ | ⟨rfl, -⟩ | ⟨rfl, -⟩ | ⟨rfl, -⟩ | ⟨rfl, -⟩ <;>
    simp [IsMaintenance]

/-- A serving grant finds the channel in a state that serves, with no doze_exit wait and no operation in progress. -/
theorem grant_serving {s : State} {c : Chan} {g : Grant} (h : s.grant c = some g) (hg : ¬IsMaintenance g) :
    (s.chan c).dozeExit.isRunning = false ∧ (s.chan c).maint = none ∧
      (s.chan c).state ∈ [ChanState.active, .holding, .held, .retainPending] ∧
      (s.chan c).serveGrant s.now s.band = some g := by
  obtain ⟨hdoze, hmaint, ⟨-, hm⟩ | ⟨hserves, hs⟩⟩ := grant_cases h
  · exact absurd (maintGrant_maintenance hm) hg
  · exact ⟨hdoze, hmaint, (serves_iff _).1 hserves, hs⟩

/-- An entry older than a starved one of its bank is starved. -/
theorem older_starved {s : State} {c : Chan} {i : Nat} {e o : PoolEntry} (hlaw : BypassLaw s)
    (he : (s.chan c).pool[i]? = some e) (ho : o ∈ (s.chan c).pool.take i) (hb : o.bank = e.bank)
    (hs : e.starved = true) : o.starved = true := by
  obtain ⟨hcount, horder⟩ := hlaw c
  obtain ⟨j, hj, rfl⟩ := List.mem_take_iff_getElem.1 ho
  obtain ⟨hi, rfl⟩ := List.getElem?_eq_some_iff.1 he
  have hji : j < i := lt_of_lt_of_le hj (Nat.min_le_left _ _)
  have hle := List.pairwise_iff_getElem.1 horder j i (hji.trans hi) hi hji hb
  obtain ⟨-, height⟩ := hcount _ (List.getElem_mem hi)
  obtain ⟨hmax, hstarved⟩ := hcount _ (List.getElem_mem (hji.trans hi))
  have h8 := height.1 hs
  exact hstarved.2 (by omega)

/-- An open is for the oldest entry of its bank: an older entry of a starved one's bank is starved itself (R76, R77). -/
theorem grant_open_oldest {s : State} {c : Chan} {b : BankIx} {row : Nat} (hlaw : BypassLaw s)
    (h : s.grant c = some (.openRow b row)) : ∃ i e, (s.chan c).pool[i]? = some e ∧ e.bank = b ∧ e.row = row ∧
      ∀ o ∈ (s.chan c).pool.take i, o.bank ≠ b := by
  obtain ⟨-, -, -, hserve⟩ := grant_serving h (by simp [IsMaintenance])
  rcases serveGrant_cases hserve with ⟨-, hf⟩ | ⟨-, ⟨i, e, he, hstep⟩ | hidle⟩
  · obtain ⟨_, -, hb⟩ := Option.map_eq_some_iff.1 hf
    cases hb
  · rw [starvedStep_iff, hitStep_iff, closeStep_iff, openStep_iff] at hstep
    rcases hstep with ⟨hstarved, hnone, hkind⟩ | ⟨-, hg⟩ | ⟨-, -, hg⟩ | ⟨-, hnone, hg⟩
    · rcases hkind with ⟨-, hg⟩ | ⟨-, -, hg⟩ | ⟨-, hg⟩
      · cases hg
      · cases hg
      · cases hg
        refine ⟨i, e, he, rfl, rfl, fun o ho hb => ?_⟩
        have hfree := hnone o ho hb
        rw [older_starved hlaw he ho hb hstarved] at hfree
        cases hfree
    · cases hg
    · cases hg
    · cases hg
      exact ⟨i, e, he, rfl, rfl, hnone⟩
  · obtain ⟨_, -, hb⟩ := Option.map_eq_some_iff.1 hidle
    cases hb

/-! ### Which serving command is granted (R74 to R78) -/

theorem orGrant_none (b : Option Grant) : orGrant none b = b := rfl

theorem orGrant_of_some {a : Option Grant} {g : Grant} (h : a = some g) (b : Option Grant) : orGrant a b = some g := by
  rw [h]
  rfl

theorem maintGrant_none {x : Channel} (h : NoMaintenance x) : x.maintGrant = none := by
  obtain ⟨hu, hs, hr, hl, ht, hn, hp⟩ := h
  unfold Channel.maintGrant
  rw [if_neg (mt (urgentMay_iff x).1 hu), if_neg (mt (settingsMay_iff x).1 hs), if_neg (mt (retentionMay_iff x).1 hr),
    if_neg (mt (longTrimMay_iff x).1 hl), if_neg (mt (shortTrimMay_iff x).1 ht), if_neg (mt (nonUrgentMay_iff x).1 hn),
    if_neg (mt (pullInMay_iff x).1 hp)]

/-- In a channel that serves and has no maintenance to issue, the grant is the serving one. -/
theorem grant_eq_serveGrant {s : State} {c : Chan}
    (hs : (s.chan c).state ∈ [ChanState.active, .holding, .held, .retainPending])
    (hd : (s.chan c).dozeExit.isRunning = false) (hm : (s.chan c).maint = none)
    (hn : (s.chan c).allClosed = true → NoMaintenance (s.chan c)) :
    s.grant c = (s.chan c).serveGrant s.now s.band := by
  have hnone : (if (s.chan c).allClosed = true then (s.chan c).maintGrant else none) = none := by
    by_cases hc : (s.chan c).allClosed = true
    · rw [if_pos hc, maintGrant_none (hn hc)]
    · rw [if_neg hc]
  rw [grant_of_free hd hm, hnone, orGrant_none, if_pos ((serves_iff _).2 hs)]

theorem serveGrant_of_force {x : Channel} (h : Forced x) (now : Nat) (b : Band) :
    x.serveGrant now b = x.forcedClose := if_pos ((force_iff x).2 h)

theorem serveGrant_of_no_force {x : Channel} (h : ¬Forced x) (now : Nat) (b : Band) :
    x.serveGrant now b = orGrant (scanPool (x.starvedStep now b) [] 0 x.pool)
      (orGrant (scanPool (x.hitStep now) [] 0 x.pool)
        (orGrant (scanPool x.closeStep [] 0 x.pool)
          (orGrant x.closeIdle (scanPool (x.openStep b) [] 0 x.pool)))) := if_neg (mt (force_iff x).1 h)

/-- Settles O48: a grant read back into the conditions of its step, and, from the conditions, the first step of the
selector's order. -/
theorem servingGrants : Obligations.ServingGrants := by
  refine ⟨?_, ?_, fun s c b row hlaw h => grant_open_oldest hlaw h, ?_⟩
  · rintro s c b x rfl
    refine ⟨fun row h => ?_, fun h => ?_⟩
    · obtain ⟨hdoze, hmaint, hstate, -⟩ := grant_serving h (by simp [IsMaintenance])
      obtain ⟨-, hforce, hopen, hallowed, he⟩ := grant_open h
      obtain ⟨hclosed, hcycle, hspacing, hwindow⟩ := (mayOpen_iff s (s.chan c) b).1 ⟨hopen, hallowed⟩
      obtain ⟨hurgent, hgrace, hlong⟩ := (force_false_iff _).1 hforce
      exact ⟨hclosed, hcycle, hspacing, hwindow, hstate, hdoze, hmaint, hurgent, hgrace, hlong, he⟩
    · obtain ⟨hdoze, hmaint, hstate, -⟩ := grant_serving h (by simp [IsMaintenance])
      obtain ⟨-, hclose⟩ := grant_close h
      obtain ⟨hopen, hmin, hburst, hrecovery⟩ := (mayClose_iff _).1 hclose
      exact ⟨hopen, hmin, hburst, hrecovery, hstate, hdoze, hmaint⟩
  · rintro s c i x rfl h
    obtain ⟨hdoze, hmaint, hstate, -⟩ := grant_serving h (by simp [IsMaintenance])
    obtain ⟨-, hforce, e, he, helig⟩ := grant_column h
    obtain ⟨hurgent, hgrace, hlong⟩ := (force_false_iff _).1 hforce
    obtain ⟨hopen, hspacing, hburst, hstarved, hheld, hread, hwrite⟩ := (columnEligible_iff s (s.chan c) i e).1 helig
    exact ⟨hstate, hdoze, hmaint, hurgent, hgrace, hlong, hspacing, e, he, hopen, hstarved, hheld,
      fun hw => ⟨hburst, hread hw⟩, hwrite⟩
  · rintro s c x rfl hstate hdoze hmaint hnone
    rw [grant_eq_serveGrant hstate hdoze hmaint hnone]
    refine ⟨fun hforce => ?_, fun hforce => ?_⟩
    · rw [serveGrant_of_force hforce]
      exact lowestBank_iff fun b => mayClose_iff _
    rw [serveGrant_of_no_force hforce]
    obtain ⟨hstarved, hnoStarved⟩ := scanPool_oldest fun i e g => starvedStep_iff s (s.chan c) i e g
    obtain ⟨hhit, hnoHit⟩ := scanPool_oldest fun i e g => hitStep_iff s (s.chan c) i e g
    obtain ⟨hclear, hnoClear⟩ := scanPool_oldest fun i e g => closeStep_iff (s.chan c) i e g
    obtain ⟨hidle, hnoIdle⟩ := lowestBank_iff fun b => closeIdle_iff (s.chan c) b
    obtain ⟨hopen, hnoOpen⟩ := scanPool_oldest fun i e g => openStep_iff s (s.chan c) i e g
    refine ⟨fun g hg => orGrant_of_some (hstarved g hg) _, fun h1 => ?_⟩
    rw [hnoStarved h1, orGrant_none]
    refine ⟨fun g hg => orGrant_of_some (hhit g hg) _, fun h2 => ?_⟩
    rw [hnoHit h2, orGrant_none]
    refine ⟨fun g hg => orGrant_of_some (hclear g hg) _, fun h3 => ?_⟩
    rw [hnoClear h3, orGrant_none]
    refine ⟨fun b hb => orGrant_of_some (hidle b hb) _, fun h4 => ?_⟩
    have hnone : (s.chan c).closeIdle = none := hnoIdle h4
    rw [hnone, orGrant_none]
    exact ⟨hopen, hnoOpen⟩

/-! ### Maintenance (R95, R96) -/

/-- With every bank CLOSED and nothing in progress, a maintenance grant is the channel's first maintenance operation. -/
theorem grant_of_maintGrant {s : State} {c : Chan} {g : Grant} (hc : (s.chan c).allClosed = true)
    (hm : (s.chan c).maint = none) (hd : (s.chan c).dozeExit.isRunning = false) (h : (s.chan c).maintGrant = some g) :
    s.grant c = some g := by
  rw [grant_of_free hd hm, if_pos hc]
  exact orGrant_of_some h _

section Reason

variable {x : Channel}

theorem refresh_reason {p : Bool} (h : x.maintGrant = some (.refresh p)) :
    (p = false ∧ UrgentMay x) ∨ (p = false ∧ NonUrgentMay x) ∨ (p = true ∧ PullInMay x) := by
  have hreason := maintGrant_reason h
  simp only [Grant.refresh.injEq, reduceCtorEq, false_and, false_or] at hreason
  exact hreason

theorem shortTrim_reason (h : x.maintGrant = some .shortTrim) : ShortTrimMay x := by
  have hreason := maintGrant_reason h
  simp only [reduceCtorEq, false_and, false_or, true_and, or_false] at hreason
  exact hreason

theorem longTrim_reason (h : x.maintGrant = some .longTrim) : LongTrimMay x := by
  have hreason := maintGrant_reason h
  simp only [reduceCtorEq, false_and, false_or, true_and, or_false] at hreason
  exact hreason

theorem settingsWrite_reason (h : x.maintGrant = some .settingsWrite) : SettingsMay x := by
  have hreason := maintGrant_reason h
  simp only [reduceCtorEq, false_and, false_or, true_and, or_false] at hreason
  exact hreason

theorem retentionEntry_reason (h : x.maintGrant = some .retentionEntry) : RetentionMay x := by
  have hreason := maintGrant_reason h
  simp only [reduceCtorEq, false_and, false_or, true_and, or_false] at hreason
  exact hreason

end Reason

/-- Settles O49: each grant with the condition of its rule; and the preference of R96, rule by rule. -/
theorem maintenanceGrants : Obligations.MaintenanceGrants := by
  rintro s c x rfl
  refine ⟨fun g h hg => ?_, fun hclosed hmaint hdoze => ?_⟩
  · obtain ⟨hmaint, hclosed, hm⟩ := grant_maintenance h hg
    obtain ⟨hdoze, -⟩ := grant_cases h
    refine ⟨hclosed, hmaint, hdoze, ?_, ?_, ?_, ?_, ?_, ?_, ?_, ?_⟩
    · rintro ⟨p, rfl⟩
      rcases refresh_reason hm with ⟨-, hstate, -⟩ | ⟨-, hstate, -⟩ | ⟨-, hstate, -⟩ <;> exact hstate
    · rintro rfl
      rcases refresh_reason hm with ⟨-, -, hurgent⟩ | ⟨-, -, hdebt, -, hdue⟩ | ⟨hp, -⟩
      · exact Or.inr hurgent
      · exact Or.inl ⟨hdebt, hdue⟩
      · cases hp
    · rintro rfl
      rcases refresh_reason hm with ⟨hp, -⟩ | ⟨hp, -⟩ | ⟨-, -, hmay⟩
      · cases hp
      · cases hp
      · exact hmay
    · rintro (rfl | rfl)
      · exact (shortTrim_reason hm).1
      · exact (longTrim_reason hm).1
    · rintro rfl
      exact (shortTrim_reason hm).2
    · rintro rfl
      exact (longTrim_reason hm).2
    · rintro rfl
      exact settingsWrite_reason hm
    · rintro rfl
      exact retentionEntry_reason hm
  · have hgrant : ∀ g, (s.chan c).maintGrant = some g → s.grant c = some g := fun g h =>
      grant_of_maintGrant hclosed hmaint hdoze h
    unfold Channel.maintGrant at hgrant
    refine ⟨fun h => hgrant _ (if_pos ((urgentMay_iff _).2 h)), fun h1 => ?_⟩
    rw [if_neg (mt (urgentMay_iff _).1 h1)] at hgrant
    refine ⟨fun h => hgrant _ (if_pos ((settingsMay_iff _).2 h)), fun h2 => ?_⟩
    rw [if_neg (mt (settingsMay_iff _).1 h2)] at hgrant
    refine ⟨fun h => hgrant _ (if_pos ((retentionMay_iff _).2 h)), fun h3 => ?_⟩
    rw [if_neg (mt (retentionMay_iff _).1 h3)] at hgrant
    refine ⟨fun h => hgrant _ (if_pos ((longTrimMay_iff _).2 h)), fun h4 => ?_⟩
    rw [if_neg (mt (longTrimMay_iff _).1 h4)] at hgrant
    refine ⟨fun h => hgrant _ (if_pos ((shortTrimMay_iff _).2 h)), fun h5 => ?_⟩
    rw [if_neg (mt (shortTrimMay_iff _).1 h5)] at hgrant
    refine ⟨fun h => hgrant _ (if_pos ((nonUrgentMay_iff _).2 h)), fun h6 => ?_⟩
    rw [if_neg (mt (nonUrgentMay_iff _).1 h6)] at hgrant
    refine ⟨fun h => hgrant _ (if_pos ((pullInMay_iff _).2 h)), fun h7 g h hg => ?_⟩
    obtain ⟨-, -, hm⟩ := grant_maintenance h hg
    rw [maintGrant_none ⟨h1, h2, h3, h4, h5, h6, h7⟩] at hm
    cases hm

end Sys2Proof.Proofs
end

section
/-! Expiries and completions of a channel: the banks' timers (O50), the data bus (O51), the refresh account (O53), trim
(O54) and the sequences (O57). -/

namespace Sys2Proof.Proofs

-- One proof after the other, in the memory that the check allows.
set_option Elab.async false

open Sys2Proof Sys2Proof.Machine Sys2Proof.Safety Sys2Proof.Laws

/-! ### A timer that is due -/

section Due

variable {s : State} {c : Chan} {st e : Nat}

theorem chanExpiry_of_due {t : Channel → Timer} {f : Channel → Channel} (h : t (s.chan c) = .running st e)
    (he : e ≤ s.now) : s.chanExpiry c t f = s.setChan c (f (s.chan c)) := if_pos (due_of_running h he)

theorem bankExpiry_of_due {b : BankIx} {t : Bank → Timer} {f : Bank → Bank}
    (h : t ((s.chan c).bank b) = .running st e) (he : e ≤ s.now) :
    s.bankExpiry c b t f = s.setChan c ((s.chan c).modBank b f) := if_pos (due_of_running h he)

theorem modChan_of_eq {f : Channel → Channel} {y : Channel} (h : f (s.chan c) = y) : s.modChan c f = s.setChan c y := by
  subst h
  rfl

end Due

/-! ### Bank timers -/

/-- row_hold of an OPEN bank starts where its list is empty and it does not run (R55). -/
theorem startRowHold_eq {x : Channel} {b : BankIx} (now : Nat) (hopen : (x.bank b).isOpen = true) :
    x.startRowHold now b = { x with banks := x.banks.set b { x.bank b with
      rowHold := if (∃ o ∈ x.pool, o.bank = b) ∨ (x.bank b).rowHold.isRunning then (x.bank b).rowHold
        else .running now (now + x.settings.rowHold) } } := by
  have hlist : (x.bankList b).isEmpty = true ↔ ¬∃ o ∈ x.pool, o.bank = b := by simp [Channel.bankList]
  unfold Channel.startRowHold
  simp only [hopen, Bool.true_and, Bool.and_eq_true, Bool.not_eq_true', hlist]
  by_cases h : (∃ o ∈ x.pool, o.bank = b) ∨ (x.bank b).rowHold.isRunning = true
  · have hkeep : ¬((¬∃ o ∈ x.pool, o.bank = b) ∧ (x.bank b).rowHold.isRunning = false) := by
      rintro ⟨hnone, hstopped⟩
      exact h.elim hnone fun hr => absurd hr (Bool.eq_false_iff.1 hstopped)
    have hset : x.banks.set b (x.bank b) = x.banks := Vector.set_getElem_self _
    rw [if_neg hkeep, if_pos h, hset]
  · rw [not_or, Bool.not_eq_true] at h
    rw [if_pos h, if_neg (not_or.2 ⟨h.1, Bool.eq_false_iff.1 h.2⟩)]
    rfl

/-- A bank that becomes OPEN at the end of its open (R50, R55). -/
theorem opened_startRowHold {x : Channel} {b : BankIx} {row : Nat} (h : (x.bank b).state = .opening row) (now : Nat) :
    (x.modBank b fun k => { k with state := k.state.toOpen, transition := .stopped }).startRowHold now b =
      { x with banks := x.banks.set b { x.bank b with
        state := .opened row, transition := .stopped
        rowHold := if (∃ o ∈ x.pool, o.bank = b) ∨ (x.bank b).rowHold.isRunning then (x.bank b).rowHold
          else .running now (now + x.settings.rowHold) } } := by
  have hbank : (x.modBank b fun k => { k with state := k.state.toOpen, transition := .stopped }).bank b =
      { x.bank b with state := .opened row, transition := .stopped } := by
    rw [Channel.bank_modBank_same, h]
    rfl
  rw [startRowHold_eq now (by rw [hbank]; rfl), hbank, Channel.modBank_banks, Vector.set_set]
  rfl

theorem openDue_of {k : Bank} {now st e row : Nat} (hs : k.state = .opening row) (ht : k.transition = .running st e)
    (he : e ≤ now) : k.openDue now = true := by
  unfold Bank.openDue
  rw [due_of_running ht he, hs]
  rfl

theorem closeDue_of {k : Bank} {now st e row : Nat} (hs : k.state = .closing row) (ht : k.transition = .running st e)
    (he : e ≤ now) : k.closeDue now = true := by
  unfold Bank.closeDue
  rw [due_of_running ht he, hs]
  rfl

/-- Settles O50: each expiry acts, its timer being due. -/
theorem bankTimersExpire : Obligations.BankTimersExpire := by
  rintro s c b x k st e rfl rfl he
  refine ⟨fun row hs ht => ?_, fun row hs ht => ?_, fun h => congrArg Host.Outcome.next (bankExpiry_of_due h he),
    fun h => congrArg Host.Outcome.next (bankExpiry_of_due h he),
    fun h => congrArg Host.Outcome.next (bankExpiry_of_due h he),
    fun h => congrArg Host.Outcome.next (bankExpiry_of_due h he)⟩
  · refine congrArg Host.Outcome.next ((if_pos (openDue_of hs ht he)).trans (modChan_of_eq ?_))
    exact opened_startRowHold hs s.now
  · exact congrArg Host.Outcome.next (if_pos (closeDue_of hs ht he))

/-! ### The data bus -/

/-- The window list loses the first entry that has reached its expiry. -/
theorem dropExpired_first {now : Nat} {older newer : List WindowEntry} {w : WindowEntry}
    (h : ∀ o ∈ older, now < o.expires) (hw : w.expires ≤ now) : dropExpired now (older ++ w :: newer) = older ++ newer := by
  unfold dropExpired
  rw [List.eraseP_append_right _ fun o ho => by simpa using h o ho, List.eraseP_cons_of_pos (by simpa using hw)]

theorem exec_writeBurstEnd {s : State} {c : Chan} {w : WriteBurst} (h : (s.chan c).writeBurst = some w)
    (he : w.expires ≤ s.now) : exec (.writeBurstEnd c) s = .next (if w.discard then
      ((s.setChan c ((s.chan c).endWriteBurst s.now w)).settle c).retire w.epoch
      else (s.setChan c ((s.chan c).endWriteBurst s.now w)).settle c) := by
  show Host.Outcome.next _ = _
  rw [h]
  dsimp only
  rw [if_pos he]
  rfl

theorem exec_readBurstEnd {s : State} {c : Chan} {e : Nat} (h : (s.chan c).readBurst = some e) (he : e ≤ s.now) :
    exec (.readBurstEnd c) s = .next ((s.setChan c { s.chan c with
      readBurst := none, readToWrite := .running s.now (s.now + (s.chan c).settings.readToWrite) }).settle c) := by
  show Host.Outcome.next _ = _
  rw [h]
  dsimp only
  rw [if_pos he]
  rfl

/-- Settles O51: each expiry acts, its timer, entry or burst being due. -/
theorem busTimersExpire : Obligations.BusTimersExpire := by
  rintro s c x st e rfl he
  refine ⟨fun h => congrArg Host.Outcome.next (chanExpiry_of_due h he),
    fun h => congrArg Host.Outcome.next (chanExpiry_of_due h he),
    fun h => congrArg Host.Outcome.next (chanExpiry_of_due h he),
    fun h => congrArg Host.Outcome.next (chanExpiry_of_due h he), fun older newer h hold => ?_, fun w h hw => ?_,
    fun h => exec_readBurstEnd h he⟩
  · refine congrArg Host.Outcome.next (modChan_of_eq ?_)
    rw [h, dropExpired_first hold he]
  · subst hw
    exact exec_writeBurstEnd h he

/-! ### The refresh account -/

theorem exec_refreshIntervalExpiry {s : State} {c : Chan} {st e : Nat} (h : (s.chan c).interval = .running st e)
    (he : e ≤ s.now) : exec (.refreshIntervalExpiry c) s = .next (((if 8 ≤ (s.chan c).debt then s.overdue c else s).modChan c
      fun x => x.intervalExpires s.now s.band s.mgmt.settings.urgencyThreshold).settle c) :=
  congrArg Host.Outcome.next (if_pos (due_of_running h he))

theorem intervalLength_eq (b : Band) (x : Settings) :
    intervalLength b x = if b = .normal then x.refreshInterval else x.refreshInterval / 2 := by
  cases b <;> rfl

/-- The account after an expiry that leaves the debt at `d`. -/
abbrev accounted (x : Channel) (now : Nat) (b : Band) (th : Nat) (d : Int) : Channel :=
  { x with debt := d, interval := .running now (now + intervalLength b x.settings), urgent := decide ((th : Int) ≤ d) }

theorem intervalExpires_of_debt {x : Channel} {d : Int} (h : (if x.debt < 8 then x.debt + 1 else x.debt) = d) (now : Nat)
    (b : Band) (th : Nat) : x.intervalExpires now b th = if x.state = .doze ∧ 1 ≤ d
      then (accounted x now b th d).leaveDoze now .active else accounted x now b th d := by
  subst h
  rfl

theorem intervalExpires_full {x : Channel} (hd : x.debt = 8) (hs : x.state ≠ .doze) (now : Nat) (b : Band) (th : Nat) :
    x.intervalExpires now b th = { x with
      interval := .running now (now + intervalLength b x.settings), urgent := decide ((th : Int) ≤ 8) } := by
  have hfull : ¬x.debt < 8 := by omega
  rw [intervalExpires_of_debt (if_neg hfull), if_neg fun hz => hs hz.1, ← hd]

/-- An expiry that meets a debt of 8: the fault and the notice come with the account's change (R92). -/
theorem overdue_modChan (s : State) (c : Chan) (f : Channel → Channel) : (s.overdue c).modChan c f =
    (s.setChan c (f { s.chan c with counters :=
      { (s.chan c).counters with overdue := bump (s.chan c).counters.overdue } })).raiseBoth
      ⟨.refreshOverdue, some c, BitVec.ofNat 32 s.band.code⟩ := by
  unfold State.overdue
  show State.setChan _ c (f (State.chan _ c)) = _
  rw [raiseBoth_chan, raiseBoth_setChan, State.chan_modChan_same]
  exact congrArg (State.raiseBoth · _) (State.setChan_setChan ..)

/-- The operation of a kind that has reached its end. -/
theorem completes_of {x : Channel} {now e : Nat} {op : MaintOp} (h : x.maint = some ⟨op, e⟩) (he : e ≤ now) :
    x.completes now op = true := by
  unfold Channel.completes
  rw [h]
  simp only [beq_self_eq_true, Bool.true_and]
  exact decide_eq_true he

theorem debtHeld_iff (x : Channel) : x.debtHeld = true ↔
    x.state ∈ [ChanState.uninit, .starting, .retained] ∨ (x.state = .waking ∧ x.seqStep = .shortExit) := by
  unfold Channel.debtHeld
  cases hx : x.state <;> simp

theorem exec_refreshCompletion {s : State} {c : Chan} {e : Nat} (h : (s.chan c).maint = some ⟨.refresh, e⟩)
    (he : e ≤ s.now) : exec (.refreshCompletion c) s = .next ((s.setChan c
      ((s.chan c).refreshCompletes s.mgmt.settings.urgencyThreshold)).settle c) :=
  congrArg Host.Outcome.next (if_pos (completes_of h he))

theorem refreshCompletes_counted {x : Channel} {th : Nat} (h : x.debtHeld = false) : x.refreshCompletes th = { x with
    maint := none, debt := x.debt - 1, urgent := decide ((th : Int) ≤ x.debt - 1) } := by
  unfold Channel.refreshCompletes Channel.judgeUrgent
  rw [h]
  rfl

theorem refreshCompletes_held {x : Channel} {th : Nat} (h : x.debtHeld = true) : x.refreshCompletes th = { x with
    maint := none, debt := 0, urgent := decide ((th : Int) ≤ 0) } := by
  unfold Channel.refreshCompletes Channel.judgeUrgent
  rw [h]
  rfl

/-- The detail of REFRESH_OVERDUE is the band. -/
theorem bandDetail_eq (b : Band) :
    BitVec.ofNat 32 b.code = (match b with | .normal => 0 | .hot => 1 | .over => 2 : Word32) := by
  cases b <;> rfl

/-- Settles O53: the debt at an expiry by whether it is full and whether it ends a doze; at a completion by whether the
state holds it at 0. -/
theorem refreshAccountCounts : Obligations.RefreshAccountCounts := by
  rintro s c x n rfl hn
  rw [← intervalLength_eq] at hn
  subst hn
  refine ⟨fun st e h he => ?_, fun e h he => ⟨fun hstate => ?_, fun hstate => ?_⟩⟩
  · rw [exec_refreshIntervalExpiry h he]
    refine ⟨fun hd hs => ?_, fun hd hs => ?_, fun hd hs => ?_, fun hd hs => ?_⟩
    · rw [if_neg (by omega), modChan_of_eq (intervalExpires_of_debt (if_pos hd) ..), if_neg fun hz => hs hz.1]
      rfl
    · rw [if_neg (by omega), modChan_of_eq (intervalExpires_of_debt (if_pos (by omega)) ..), if_neg fun hz => by omega]
      rfl
    · have hone : (if (s.chan c).debt < 8 then (s.chan c).debt + 1 else (s.chan c).debt) = 1 := by
        rw [hd]
        rfl
      rw [if_neg (by omega), modChan_of_eq (intervalExpires_of_debt hone ..), if_pos ⟨hs, le_refl _⟩]
      rfl
    · have hx := intervalExpires_full (x := { s.chan c with counters :=
        { (s.chan c).counters with overdue := bump (s.chan c).counters.overdue } }) hd hs s.now s.band
        s.mgmt.settings.urgencyThreshold
      rw [if_pos hd.ge, overdue_modChan, hx, bandDetail_eq]
      rfl
  · have hcounted : (s.chan c).debtHeld = false := by
      rw [Bool.eq_false_iff, ne_eq, debtHeld_iff]
      rintro (hheld | ⟨hw, hseq⟩)
      · rcases hstate with hstate | ⟨hw, -⟩
        · revert hheld hstate
          generalize (s.chan c).state = u
          revert u
          decide
        · rw [hw] at hheld
          exact absurd hheld (by decide)
      · rcases hstate with hstate | ⟨-, hne⟩
        · rw [hw] at hstate
          exact absurd hstate (by decide)
        · exact hne hseq
    rw [exec_refreshCompletion h he, refreshCompletes_counted hcounted]
  · rw [exec_refreshCompletion h he, refreshCompletes_held ((debtHeld_iff _).2 hstate)]

end Sys2Proof.Proofs
end

section
/-! Expiries and completions of a channel: trim (O54), the channel's sequences (O57); and the recomputation of the trim
interval (O60). -/

namespace Sys2Proof.Proofs

-- One proof after the other, in the memory that the check allows.
set_option Elab.async false

open Sys2Proof Sys2Proof.Machine Sys2Proof.Safety Sys2Proof.Laws

/-! ### Trim timers and completions -/

theorem shortTrimFallsDue_awake {x : Channel} (h : x.state ≠ .doze) (now graceUs : Nat) :
    x.shortTrimFallsDue now graceUs = { x with
      shortTrimDue := true, trimTimer := .stopped, graceTimer := .running now (now + graceUs * 4000) } := if_neg h

theorem shortTrimFallsDue_doze {x : Channel} (h : x.state = .doze) (now graceUs : Nat) :
    x.shortTrimFallsDue now graceUs = { x with
      shortTrimDue := true, trimTimer := .stopped, graceTimer := .running now (now + graceUs * 4000)
      state := .active, dozeExit := .running now (now + x.settings.dozeExit), lastCommand := some .dozeExit } := if_pos h

theorem trimTimerMayRun_iff (x : Channel) : x.trimTimerMayRun = true ↔
    x.state ∈ [ChanState.active, .doze, .holding, .held, .retainPending] ∨
      (x.state = .waking ∧ x.seqStep = .longExit) := by
  unfold Channel.trimTimerMayRun
  cases hx : x.state <;> simp

/-- The states in which the trim timer does not run after a short trim. -/
theorem trimTimerMayRun_false {x : Channel} (h : x.state ∈ [ChanState.uninit, .starting, .retained] ∨
    (x.state = .waking ∧ x.seqStep ≠ .longExit)) : x.trimTimerMayRun = false := by
  unfold Channel.trimTimerMayRun
  rcases h with h | ⟨h, hne⟩
  · simp only [List.mem_cons, List.not_mem_nil, or_false] at h
    rcases h with h | h | h <;> rw [h]
  · rw [h]
    exact beq_eq_false_iff_ne.2 hne

theorem shortTrimCompletes_running {x : Channel} (h : x.trimTimerMayRun = true) (now : Nat) :
    x.shortTrimCompletes now = { x with
      maint := none, shortTrimDue := false, graceForce := false
      trimTimer := .running now (now + x.trimInterval * 4000000) } := if_pos h

theorem shortTrimCompletes_stopped {x : Channel} (h : x.trimTimerMayRun = false) (now : Nat) :
    x.shortTrimCompletes now = { x with maint := none, shortTrimDue := false, graceForce := false } :=
  if_neg (Bool.eq_false_iff.1 h)

theorem longTrimCompletes_eq (x : Channel) (now : Nat) : x.longTrimCompletes now = { x with
    maint := none, shortTrimDue := false, graceForce := false, longTrimRequest := false
    trimTimer := .running now (now + x.trimInterval * 4000000) } := rfl

section AfterLongTrim

variable {s : State} {c : Chan} {requested : Bool}

theorem afterLongTrim_starting (h : (s.chan c).state = .starting) : s.afterLongTrim c requested = s.enterActive c := by
  unfold State.afterLongTrim
  rw [h]

theorem afterLongTrim_waking (h : (s.chan c).state = .waking) : s.afterLongTrim c requested =
    if (s.chan c).retainExitLong = .expired then s.enterActive c
    else s.modChan c fun x => { x with seqStep := .longExit } := by
  unfold State.afterLongTrim
  rw [h]

theorem afterLongTrim_requested (h : (s.chan c).state ∈ [ChanState.active, .held]) :
    s.afterLongTrim c true = s.endLong c .ok := by
  unfold State.afterLongTrim
  simp only [List.mem_cons, List.not_mem_nil, or_false] at h
  rcases h with h | h <;> rw [h] <;> rfl

end AfterLongTrim

section Trims

variable {s : State} {c : Chan} {st e : Nat}

theorem exec_trimTimerExpiry (h : (s.chan c).trimTimer = .running st e) (he : e ≤ s.now) :
    exec (.trimTimerExpiry c) s = .next ((s.setChan c
      ((s.chan c).shortTrimFallsDue s.now s.mgmt.settings.trimGraceUs)).settle c) :=
  congrArg Host.Outcome.next (if_pos (due_of_running h he))

theorem exec_shortTrimCompletion (h : (s.chan c).maint = some ⟨.shortTrim, e⟩) (he : e ≤ s.now) :
    exec (.shortTrimCompletion c) s = .next ((s.setChan c ((s.chan c).shortTrimCompletes s.now)).settle c) :=
  congrArg Host.Outcome.next (if_pos (completes_of h he))

theorem exec_longTrimCompletion (h : (s.chan c).maint = some ⟨.longTrim, e⟩) (he : e ≤ s.now) :
    exec (.longTrimCompletion c) s = .next (((s.setChan c ((s.chan c).longTrimCompletes s.now)).afterLongTrim c
      (s.chan c).longTrimRequest).settle c) :=
  congrArg Host.Outcome.next (if_pos (completes_of h he))

end Trims

/-- Settles O54: a trim falls due asleep or awake; a completion by the state of its channel. -/
theorem trimTimersAndCompletions : Obligations.TrimTimersAndCompletions := by
  rintro s c x st e rfl he
  refine ⟨fun h => ⟨fun hs => ?_, fun hs => ?_⟩, fun h hdue => ?_, fun h => ⟨fun hs => ?_, fun hs => ?_⟩,
    fun y hy h => ?_⟩
  · rw [exec_trimTimerExpiry h he, shortTrimFallsDue_awake hs]
  · rw [exec_trimTimerExpiry h he, shortTrimFallsDue_doze hs]
  · refine congrArg Host.Outcome.next ((chanExpiry_of_due h he).trans ?_)
    rw [hdue]
  · rw [exec_shortTrimCompletion h he, shortTrimCompletes_running ((trimTimerMayRun_iff _).2 hs)]
  · rw [exec_shortTrimCompletion h he, shortTrimCompletes_stopped (trimTimerMayRun_false hs)]
  · have hchan : (s.setChan c y).chan c = y := State.chan_setChan_same ..
    have hstate : ((s.setChan c y).chan c).state = (s.chan c).state := by rw [hchan, hy]
    have hexit : ((s.setChan c y).chan c).retainExitLong = (s.chan c).retainExitLong := by rw [hchan, hy]
    rw [exec_longTrimCompletion h he, longTrimCompletes_eq, ← hy]
    refine ⟨fun hs => ?_, fun hs hx => ?_, fun hs hx => ?_, fun hs hr => ?_⟩
    · rw [afterLongTrim_starting (hstate.trans hs)]
    · rw [afterLongTrim_waking (hstate.trans hs), if_pos (hexit.trans hx)]
    · rw [afterLongTrim_waking (hstate.trans hs), if_neg (hexit ▸ hx), State.modChan_setChan]
    · rw [hr, afterLongTrim_requested (hstate ▸ hs)]

/-! ### The sequences of a channel -/

theorem enterDoze_eq (x : Channel) : x.enterDoze = { x with
    state := .doze, idleTimer := .stopped, lastCommand := some .dozeEntry
    counters := { x.counters with dozes := bump x.counters.dozes } } := rfl

section Sequences

variable {s : State} {c : Chan} {st e : Nat}

theorem exec_settingsWriteCompletion (h : (s.chan c).maint = some ⟨.settingsWrite, e⟩) (he : e ≤ s.now) :
    exec (.settingsWriteCompletion c) s = .next (((s.setChan c { s.chan c with maint := none }).afterSettingsWrite
      c).settle c) :=
  congrArg Host.Outcome.next (if_pos (completes_of h he))

theorem exec_retainExitLongExpiry (h : (s.chan c).retainExitLong = .running st e) (he : e ≤ s.now) :
    exec (.retainExitLongExpiry c) s = .next ((if (s.chan c).state = .waking ∧ (s.chan c).seqStep = .longExit
      then (s.setChan c { s.chan c with retainExitLong := .expired }).enterActive c
      else s.setChan c { s.chan c with retainExitLong := .expired }).settle c) :=
  congrArg Host.Outcome.next (if_pos (due_of_running h he))

theorem afterSettingsWrite_starting (h : (s.chan c).state = .starting) :
    s.afterSettingsWrite c = s.modChan c fun x => { x with seqStep := .longTrim } := by
  unfold State.afterSettingsWrite
  rw [h]

theorem afterSettingsWrite_held (h : (s.chan c).state = .held) :
    s.afterSettingsWrite c = (s.modChan c fun x => { x with state := .active }).endLong c .ok := by
  unfold State.afterSettingsWrite
  rw [h]

end Sequences

/-- Settles O57: each expiry acts, its timer being due, by the channel's state. -/
theorem channelSequencesStep : Obligations.ChannelSequencesStep := by
  rintro s c x st e rfl he
  refine ⟨fun h hs => ?_, fun h => congrArg Host.Outcome.next (if_pos (due_of_running h he)), fun h hs => ?_,
    fun h => ⟨fun hs => ?_, fun hs => ?_⟩, fun h hs => ?_, fun h => ⟨fun hs hq => ?_, fun hq => ?_⟩⟩
  · exact congrArg Host.Outcome.next ((if_pos ⟨due_of_running h he, hs⟩).trans (modChan_of_eq (enterDoze_eq _)))
  · refine congrArg Host.Outcome.next ((chanExpiry_of_due h he).trans ?_)
    rw [if_pos hs]
  · have hstate : ((s.setChan c { s.chan c with maint := none }).chan c).state = .starting := by
      rw [State.chan_setChan_same]
      exact hs
    rw [exec_settingsWriteCompletion h he, afterSettingsWrite_starting hstate, State.modChan_setChan]
  · have hstate : ((s.setChan c { s.chan c with maint := none }).chan c).state = .held := by
      rw [State.chan_setChan_same]
      exact hs
    rw [exec_settingsWriteCompletion h he, afterSettingsWrite_held hstate, State.modChan_setChan]
  · refine congrArg Host.Outcome.next ((chanExpiry_of_due h he).trans ?_)
    rw [if_pos hs, ← intervalLength_eq]
    rfl
  · rw [exec_retainExitLongExpiry h he, if_pos ⟨hs, hq⟩]
  · rw [exec_retainExitLongExpiry h he, if_neg fun hw => hq hw.2]

/-! ### A recomputed trim interval (R106) -/

/-- A running trim timer under a new interval: the trim falls due, or the expiry moves. -/
theorem recomputeTrim_running {x : Channel} {now d st e : Nat} {m : MaintSettings} (hn : trimIntervalOf m d ≠ x.trimInterval)
    (h : x.trimTimer = .running st e) : x.recomputeTrim now m d = if trimIntervalOf m d * 4000000 ≤ now - st
      then { x with trimInterval := trimIntervalOf m d }.shortTrimFallsDue now m.trimGraceUs
      else { x with trimInterval := trimIntervalOf m d
                    trimTimer := .running st (st + trimIntervalOf m d * 4000000) } := by
  unfold Channel.recomputeTrim
  dsimp only
  rw [if_neg hn, h]
  rfl

/-- Settles O60: by whether the interval is the same, then by the trim timer. -/
theorem trimRecomputation : Obligations.TrimRecomputation := by
  rintro x now d n m rfl
  refine ⟨fun h => if_pos h, fun hn => ⟨fun st e h => ?_, fun h => ?_⟩⟩
  · rw [recomputeTrim_running hn h]
    refine ⟨fun hle hs => ?_, fun hle hs => ?_, fun hlt => if_neg (not_le.2 hlt)⟩
    · exact (if_pos hle).trans (shortTrimFallsDue_awake (x := { x with trimInterval := trimIntervalOf m d }) hs ..)
    · exact (if_pos hle).trans (shortTrimFallsDue_doze (x := { x with trimInterval := trimIntervalOf m d }) hs ..)
  · unfold Channel.recomputeTrim
    dsimp only
    rw [if_neg hn, h]

end Sys2Proof.Proofs
end

section
/-! A read's data arriving (O52), the endings that several commands share (O55), and the stale timer (O56). -/

namespace Sys2Proof.Proofs

-- One proof after the other, in the memory that the check allows.
set_option Elab.async false

open Sys2Proof Sys2Proof.Machine Sys2Proof.Safety Sys2Proof.Laws

/-! ### The check of a line (R139) -/

theorem tableList_wordIxs {α : Type} (v : Vector α 8) : tableList v = wordIxs.map fun w => v[w] := by
  refine List.ext_getElem? fun i => ?_
  by_cases h : i < 8
  · have hw : wordIxs[i]? = some ⟨i, h⟩ := by
      revert i
      decide
    rw [List.getElem?_map, hw]
    exact tableList_getElem? v ⟨i, h⟩
  · have hlen : (tableList v).length = 8 := Array.length_toList.trans v.size_toArray
    rw [List.getElem?_eq_none (by omega), List.getElem?_eq_none (by simp [wordIxs]; omega)]

theorem countP_tableList {α : Type} (p : α → Bool) (v : Vector α 8) :
    (tableList v).countP p = wordIxs.countP fun w => p v[w] := by
  rw [tableList_wordIxs, List.countP_map]
  rfl

/-- A sum of eight powers of 2 is the number of its bits. -/
theorem ofBits_eight (f : Fin 8 → Bool) : Nat.ofBits f = (f 0).toNat + (2 * (f 1).toNat + (4 * (f 2).toNat +
    (8 * (f 3).toNat + (16 * (f 4).toNat + (32 * (f 5).toNat + (64 * (f 6).toNat + 128 * (f 7).toNat)))))) := by
  have hbits : Nat.ofBits f = 2 * (2 * (2 * (2 * (2 * (2 * (2 * (2 * 0 + (f 7).toNat) + (f 6).toNat) + (f 5).toNat) +
      (f 4).toNat) + (f 3).toNat) + (f 2).toNat) + (f 1).toNat) + (f 0).toNat := rfl
  omega

/-- The poisoned-word set is the number whose bits are the words' judgments. -/
theorem poisonedSet_eq (ws : Vector StoredWord 8) :
    poisonedSet ws = BitVec.ofNat 8 (Nat.ofBits fun w : WordIx => ws[w].uncorrectable) := by
  have hbit : ∀ w : WordIx, poisonBit ws w = 2 ^ w.val * ws[w].uncorrectable.toNat := fun w => by
    unfold poisonBit
    cases ws[w].uncorrectable <;> simp
  have hsum : (wordIxs.map (poisonBit ws)).sum = Nat.ofBits fun w : WordIx => ws[w].uncorrectable := by
    rw [ofBits_eight, List.map_congr_left fun w _ => hbit w]
    simp [wordIxs]
  unfold poisonedSet
  rw [hsum]

theorem poisonedSet_bit (ws : Vector StoredWord 8) (w : WordIx) :
    (poisonedSet ws).getLsbD w = decide (2 ≤ ws[w].changedBits) := by
  rw [poisonedSet_eq, BitVec.getLsbD_ofNat, decide_eq_true w.isLt, Bool.true_and, Nat.testBit_ofBits_lt _ _ w.isLt]
  rfl

theorem returnedLine_word (ws : Vector StoredWord 8) (w : WordIx) : (returnedLine ws)[w] =
    if ws[w].changedBits = 1 then ws[w].codeOf else ws[w].data := mapTable_get ..

theorem changedBits_eq (w : StoredWord) : w.changedBits =
    (List.range 64).countP (fun i => w.data.getLsbD i != w.codeOf.getLsbD i) + w.codeFlips := by
  unfold StoredWord.changedBits bitCount
  simp only [BitVec.getLsbD_xor]

/-! ### READ_COMPLETION -/

/-- The state in which the data of a read has left its issue list for the bus. -/
abbrev dataArrived (s : State) (c : Chan) (ps : List IssuedRead) : State := s.setChan c { s.chan c with
  issued := ps, readBurst := some (s.now + (s.chan c).settings.burstTime) }

theorem exec_readCompletion {s : State} {c : Chan} {p : IssuedRead} {ps : List IssuedRead}
    (h : (s.chan c).issued = p :: ps) (he : p.expires ≤ s.now) (hb : (s.chan c).readBurst = none) :
    exec (.readCompletion c) s = .next ((dataArrived s c ps).deliver c p) := by
  have harrive : (s.chan c).arrive s.now = { s.chan c with
      issued := ps, readBurst := some (s.now + (s.chan c).settings.burstTime) } := by
    unfold Channel.arrive
    rw [h]
    rfl
  show Host.Outcome.next _ = _
  rw [h]
  dsimp only
  rw [if_pos ⟨he, hb⟩, modChan_of_eq harrive]

theorem deliver_reserved {s : State} {d : IssuedRead} {r : ReadRecord} (h : s.ret.slots[d.slot] = .reserved r)
    (c : Chan) : s.deliver c d = s.fillSlot c d.slot r d.words := by
  unfold State.deliver
  rw [h]

theorem deliver_discard {s : State} {d : IssuedRead} {r : ReadRecord} (h : s.ret.slots[d.slot] = .discard r)
    (c : Chan) : s.deliver c d = (s.setSlot d.slot .free).retire r.epoch := by
  unfold State.deliver
  rw [h]

/-- POISONED of a line. -/
abbrev poisonedNotice (c : Chan) (r : ReadRecord) : Notice := ⟨.poisoned, some c, bankRowDetail r.bank r.row⟩

/-- The slot filled, its READ_DATA ready and the words counted, the notice apart. -/
def slotFilled (s : State) (c : Chan) (i : SlotIx) (r : ReadRecord) (ws : Vector StoredWord 8) : State :=
  ((s.modChan c fun x => x.count fun k => k.countWords ws).setSlot i
    (.filled r (returnedLine ws) (poisonedSet ws))).handOver ⟨r.stream, r.tag, r.order, .readData r.epoch i, false⟩

section Fill

variable (s : State) (c : Chan) (i : SlotIx) (r : ReadRecord) (ws : Vector StoredWord 8)

theorem fillSlot_eq : s.fillSlot c i r ws = if poisonedSet ws = 0 then slotFilled s c i r ws
    else (slotFilled s c i r ws).raiseNotice (poisonedNotice c r) := rfl

theorem slotFilled_chan_same : (slotFilled s c i r ws).chan c = { s.chan c with counters := { (s.chan c).counters with
    correctedWords := bumpBy (wordIxs.countP fun w => ws[w].changedBits == 1) (s.chan c).counters.correctedWords
    poisonedWords := bumpBy (wordIxs.countP fun w => 2 ≤ ws[w].changedBits) (s.chan c).counters.poisonedWords } } := by
  have hcounted : (slotFilled s c i r ws).chan c = (s.modChan c fun x => x.count fun k => k.countWords ws).chan c := rfl
  rw [hcounted, State.chan_modChan_same]
  unfold Channel.count Counters.countWords
  rw [countP_tableList, countP_tableList]
  rfl

theorem slotFilled_chan_ne {d : Chan} (h : c ≠ d) : (slotFilled s c i r ws).chan d = s.chan d :=
  State.chan_modChan_ne s (fun x => x.count fun k => k.countWords ws) h

/-- What POISONED can add to a filled slot: a notice, and its wait. -/
theorem fillSlot_frame : (s.fillSlot c i r ws).now = s.now ∧ (s.fillSlot c i r ws).link = s.link ∧
    (s.fillSlot c i r ws).intake = s.intake ∧ (s.fillSlot c i r ws).map = s.map ∧
    (s.fillSlot c i r ws).pending = s.pending ∧ (s.fillSlot c i r ws).mgmt.fault = s.mgmt.fault ∧
    (∀ d, (s.fillSlot c i r ws).chan d = (slotFilled s c i r ws).chan d) ∧
    (s.fillSlot c i r ws).ret.slots = s.ret.slots.set i (.filled r (returnedLine ws) (poisonedSet ws)) ∧
    (s.fillSlot c i r ws).ret.queue = s.ret.queue ++ [⟨r.stream, r.tag, r.order, .readData r.epoch i, false⟩] ∧
    (s.fillSlot c i r ws).ret.nextToSend = s.ret.nextToSend := by
  rw [fillSlot_eq]
  by_cases h : poisonedSet ws = 0
  · rw [if_pos h]
    exact ⟨rfl, rfl, rfl, rfl, rfl, rfl, fun _ => rfl, rfl, rfl, rfl⟩
  · obtain ⟨hnow, hlink, hintake, hmap, hchans, hpending, hslots, hqueue, hnext, -, -, hfault⟩ :=
      raiseNotice_frame (slotFilled s c i r ws) (poisonedNotice c r)
    rw [if_neg h]
    exact ⟨hnow, hlink, hintake, hmap, hpending, hfault, fun d => raiseNotice_chan _ _ d, hslots, hqueue, hnext⟩

/-- POISONED is raised exactly for a poisoned line. -/
theorem fillSlot_notice : (poisonedSet ws = 0 → (s.fillSlot c i r ws).mgmt = s.mgmt ∧
      (s.fillSlot c i r ws).ret.noticeWait = s.ret.noticeWait) ∧
    (poisonedSet ws ≠ 0 → (s.fillSlot c i r ws).mgmt = (s.raiseNotice (poisonedNotice c r)).mgmt ∧
      (s.fillSlot c i r ws).ret.noticeWait = (s.raiseNotice (poisonedNotice c r)).ret.noticeWait) := by
  rw [fillSlot_eq]
  refine ⟨fun h => ?_, fun h => ?_⟩
  · rw [if_pos h]
    exact ⟨rfl, rfl⟩
  · have hnotices := raiseNotice_notices_congr (s := slotFilled s c i r ws) (t := s) (poisonedNotice c r) rfl rfl
    rw [if_neg h, raiseNotice_mgmt, raiseNotice_mgmt s, hnotices]
    exact ⟨rfl, raiseNotice_wait_congr (s := slotFilled s c i r ws) (t := s) (poisonedNotice c r) rfl rfl rfl⟩

end Fill

/-- Settles O52: the delivery by its slot; the line's check word by word. -/
theorem readDataArrives : Obligations.ReadDataArrives := by
  rintro s c d x p ps rfl hne hissued hdue hbus
  refine ⟨fun r hslot => ?_, fun r hslot => ?_, changedBits_eq⟩
  · have hreserved : (dataArrived s c ps).ret.slots[p.slot] = .reserved r := hslot
    obtain ⟨hnow, hlink, hintake, hmap, hpending, hfault, hchan, hslots, hqueue, hnext⟩ :=
      fillSlot_frame (dataArrived s c ps) c p.slot r p.words
    obtain ⟨hclean, hpoisoned⟩ := fillSlot_notice (dataArrived s c ps) c p.slot r p.words
    have hsame := (hchan c).trans (slotFilled_chan_same ..)
    have hother := ((hchan d).trans (slotFilled_chan_ne _ _ _ _ _ hne)).trans (State.chan_setChan_ne s _ hne)
    have hnotices := raiseNotice_notices_congr (s := dataArrived s c ps) (t := s) (poisonedNotice c r) rfl rfl
    have hwait := raiseNotice_wait_congr (s := dataArrived s c ps) (t := s) (poisonedNotice c r) rfl rfl rfl
    have hmgmt : ((dataArrived s c ps).raiseNotice (poisonedNotice c r)).mgmt = (s.raiseNotice (poisonedNotice c r)).mgmt := by
      rw [raiseNotice_mgmt, raiseNotice_mgmt s, hnotices]
      rfl
    rw [hmgmt, hwait] at hpoisoned
    rw [State.chan_setChan_same] at hsame
    refine ⟨_, poisonedNotice c r, returnedLine p.words, poisonedSet p.words,
      (exec_readCompletion hissued hdue hbus).trans (congrArg Host.Outcome.next (deliver_reserved hreserved c)), rfl, ?_⟩
    generalize (dataArrived s c ps).fillSlot c p.slot r p.words = t at *
    refine ⟨?_, fun h => (hclean h).2, hpoisoned, fun j => congrArg (·[j]) hnext, hnow, hpending, ?_, fun j hj => ?_,
      returnedLine_word _, poisonedSet_bit _, hqueue, ?_, ?_, ?_, fun h => (hclean h).1, fun h henable hfree => ?_, hfault,
      ?_, hother, hmap, hlink, hintake⟩
    · rw [hsame]
    · rw [hslots]
      exact Vector.getElem_set_self _
    · rw [hslots]
      exact Vector.getElem_set_ne p.slot.isLt j.isLt fun he => hj (Fin.ext he.symm)
    · rw [hsame]
    · rw [hsame]
    · rw [hsame]
    · rw [(hpoisoned h).1, mem_raiseNotice]
      refine Or.inr ⟨rfl, henable, List.any_eq_false.2 fun n hn hsame => ?_⟩
      unfold Notice.samePair at hsame
      rw [Bool.and_eq_true] at hsame
      exact hfree n hn (beq_iff_eq.1 hsame.1).symm (beq_iff_eq.1 hsame.2).symm
    · rw [hsame]
  · exact (exec_readCompletion hissued hdue hbus).trans
      (congrArg Host.Outcome.next (deliver_discard (s := dataArrived s c ps) hslot c))

/-! ### What several commands share -/

section Endings

variable {s : State} {c : Chan}

theorem enterActive_eq (s : State) (c : Chan) : s.enterActive c = (s.setChan c { s.chan c with
    state := .active, seqStep := .none, debt := 0, urgent := false
    interval := .running s.now (s.now + (if s.mgmt.temp.band = .normal then (s.chan c).settings.refreshInterval
      else (s.chan c).settings.refreshInterval / 2)) }).endLong c .ok := by
  rw [← intervalLength_eq]
  rfl

theorem endLong_answerable {r : LongRecord} (h : (s.chan c).longCmd = some r) (ha : r.answerable = true) (n : MgmtCode) :
    s.endLong c n = { s.setChan c { s.chan c with longCmd := none } with ret := { s.ret with
      queue := s.ret.queue ++ [⟨r.stream, r.tag, r.order, .mgmtResp n none, false⟩] } } := by
  unfold State.endLong
  rw [h]
  dsimp only
  rw [if_pos ha]
  rfl

theorem endLong_unanswerable {r : LongRecord} (h : (s.chan c).longCmd = some r) (ha : r.answerable = false)
    (n : MgmtCode) : s.endLong c n = s.setChan c { s.chan c with longCmd := none } := by
  unfold State.endLong
  rw [h]
  dsimp only
  rw [if_neg (Bool.eq_false_iff.1 ha)]
  rfl

theorem endLong_none (h : (s.chan c).longCmd = none) (n : MgmtCode) : s.endLong c n = s := by
  unfold State.endLong
  rw [h]

theorem any_samePair_iff (n : Notice) (l : List Notice) :
    l.any n.samePair = true ↔ ∃ m ∈ l, m.kind = n.kind ∧ m.chan = n.chan := by
  rw [List.any_eq_true]
  refine exists_congr fun m => and_congr_right fun _ => ?_
  unfold Notice.samePair
  rw [Bool.and_eq_true, beq_iff_eq, beq_iff_eq, @eq_comm _ m.kind, @eq_comm _ m.chan]

/-- A notice changes the notices and the wait. -/
theorem raiseNotice_whole (s : State) (n : Notice) : s.raiseNotice n = { s with
    mgmt := { s.mgmt with notices := (s.raiseNotice n).mgmt.notices }
    ret := { s.ret with noticeWait := (s.raiseNotice n).ret.noticeWait } } := by
  unfold State.raiseNotice
  split
  · dsimp only
    split <;> rfl
  · rfl

/-- The wait begins from 0 with the first notice. -/
theorem raiseNotice_wait_of_empty {n : Notice} (h : s.mgmt.notices = []) (he : noticeEnabled s.mgmt.settings.noticeEnable
    n.kind = true) : (s.raiseNotice n).ret.noticeWait = 0 := (raiseNotice_of_first h he).2

theorem raiseNotice_of_same {n : Notice} (h : ∃ m ∈ s.mgmt.notices, m.kind = n.kind ∧ m.chan = n.chan) :
    s.raiseNotice n = s := by
  have hany := (any_samePair_iff n s.mgmt.notices).2 h
  unfold State.raiseNotice
  rw [hany]
  exact if_neg (by simp)

theorem retire_previous (s : State) {e : Epoch} (h : e ≠ s.map.epoch) : s.retire e =
    if s.map.previous = 1
    then ({ s with map := { s.map with previous := s.map.previous - 1 } } : State).raiseNotice
      ⟨.mapDrained, none, BitVec.ofNat 32 (s.map.epoch - 1).toNat⟩
    else { s with map := { s.map with previous := s.map.previous - 1 } } := if_neg h

end Endings

theorem bump_toNat (c : Word32) : (bump c).toNat = min 0xFFFFFFFF (c.toNat + 1) := by
  unfold bump
  have hlt := c.isLt
  by_cases h : c = BitVec.allOnes 32
  · rw [if_pos h, h]
    rfl
  · have hne : c.toNat ≠ 0xFFFFFFFF := fun he => h (BitVec.eq_of_toNat_eq he)
    rw [if_neg h, BitVec.toNat_add]
    show (c.toNat + 1) % 2 ^ 32 = _
    omega

theorem bumpBy_toNat (n : Nat) (c : Word32) : (bumpBy n c).toNat = min 0xFFFFFFFF (c.toNat + n) := by
  induction n generalizing c with
  | zero =>
    have hlt := c.isLt
    show c.toNat = _
    omega
  | succ n ih =>
    show (bumpBy n (bump c)).toNat = _
    rw [ih, bump_toNat]
    omega

/-- Settles O55: each shared ending by its own equation. -/
theorem sharedEndings : Obligations.SharedEndings := by
  refine ⟨?_, fun s n => ⟨fun henable hfree => ?_, ?_⟩, fun s e => ⟨fun he => if_pos he, fun he hp => ?_, fun he hp => ?_⟩,
    fun n c => ⟨bump_toNat c, bumpBy_toNat n c⟩, fun a b => ?_, rfl⟩
  · rintro s c x rfl
    exact ⟨enterActive_eq s c, fun n r h ha => endLong_answerable h ha n, fun n r h ha => endLong_unanswerable h ha n,
      fun n h => endLong_none h n⟩
  · have hnone : s.mgmt.notices.any n.samePair = false := by
      rw [Bool.eq_false_iff, ne_eq, any_samePair_iff]
      rintro ⟨m, hm, hsame⟩
      exact hfree m hm hsame
    refine ⟨fun m => ?_, fun h => raiseNotice_wait_of_empty h henable, raiseNotice_noticeWait_of_pending n,
      raiseNotice_whole s n⟩
    rw [mem_raiseNotice, or_comm]
    exact or_congr_left (and_iff_left ⟨henable, hnone⟩)
  · rintro (hoff | hsame)
    · exact raiseNotice_of_disabled hoff
    · exact raiseNotice_of_same hsame
  · rw [retire_previous s he, if_neg hp]
  · rw [retire_previous s he, if_pos hp, hp]
  · unfold orderLater
    rw [Bool.and_eq_true, decide_eq_true_eq, decide_eq_true_eq]

/-! ### The stale timer (R89) -/

/-- A notice is raised alike before and after a change of the temperature record. -/
theorem raiseNotice_modTemp (s : State) (x : TempRecord) (n : Notice) :
    (s.modMgmt fun m => { m with temp := x }).raiseNotice n = (s.raiseNotice n).modMgmt fun m => { m with temp := x } := by
  by_cases h1 : (noticeEnabled s.mgmt.settings.noticeEnable n.kind && !(s.mgmt.notices.any n.samePair)) = true
  · by_cases h2 : s.mgmt.notices.isEmpty = true
    · simp only [State.raiseNotice, State.modMgmt_mgmt, h1, h2, if_true]
      rfl
    · simp only [State.raiseNotice, State.modMgmt_mgmt, h1, h2, if_true]
      rfl
  · simp only [State.raiseNotice, State.modMgmt_mgmt, h1]
    rfl

/-- TEMP_STALE with the last report. -/
abbrev tempStale (s : State) : Notice := ⟨.tempStale, none, signed32 (s.mgmt.temp.last.getD 0)⟩

/-- The band after the stale timer's expiry. -/
abbrev staleBand (s : State) : Band := if s.band = .normal then .hot else s.band

/-- The stale timer's expiry before the band changes. -/
abbrev staleRecorded (s : State) : State := (s.raiseNotice (tempStale s)).modMgmt fun m => { m with
  temp := { s.mgmt.temp with stale := true, staleTimer := .stopped } }

theorem setBand_self (s : State) : s.setBand s.band = s := if_pos rfl

theorem exec_staleTimerExpiry {s : State} {st e : Nat} (h : s.mgmt.temp.staleTimer = .running st e) (he : e ≤ s.now) :
    exec .staleTimerExpiry s = .next ((staleRecorded s).setBand (staleBand s)) := by
  have hraised : (s.modMgmt fun m => { m with temp := { m.temp with stale := true, staleTimer := .stopped } }).raiseNotice
      (tempStale s) = staleRecorded s := raiseNotice_modTemp s _ _
  have hexec : exec .staleTimerExpiry s = .next (if s.band = .normal then
      ((s.modMgmt fun m => { m with temp := { m.temp with stale := true, staleTimer := .stopped } }).raiseNotice
        (tempStale s)).setBand .hot else
      (s.modMgmt fun m => { m with temp := { m.temp with stale := true, staleTimer := .stopped } }).raiseNotice
        (tempStale s)) := congrArg Host.Outcome.next (if_pos (due_of_running h he))
  rw [hexec, hraised]
  refine congrArg Host.Outcome.next ?_
  by_cases hb : s.band = .normal
  · rw [if_pos hb, staleBand, if_pos hb]
  · rw [if_neg hb, staleBand, if_neg hb]
    exact (setBand_self (staleRecorded s)).symm

theorem staleBand_of_normal {s : State} (h : s.band = .normal) : staleBand s = .hot := if_pos h

theorem staleBand_of_other {s : State} (h : s.band ≠ .normal) : staleBand s = s.band := if_neg h

/-- A channel at the stale timer's expiry. -/
theorem stale_chan (s : State) (c : Chan) : ((staleRecorded s).setBand (staleBand s)).chan c =
    (s.chan c).takeBand s.now s.band (staleBand s) := by
  have hchan : (staleRecorded s).chan c = s.chan c := raiseNotice_chan ..
  have hnow : (staleRecorded s).now = s.now := raiseNotice_now ..
  rw [setBand_chan, hchan, hnow]
  rfl

/-- Settles O56: the notice, the record and the band's change, one after the other. -/
theorem staleTimerExpires : Obligations.StaleTimerExpires := by
  intro s st e h he
  refine ⟨_, _, exec_staleTimerExpiry h he, rfl, ?_⟩
  have hchan := stale_chan s
  have hwhole := setBand_eq (staleRecorded s) (staleBand s)
  obtain ⟨-, hlink, hintake, hmap, hret, -, hmgmt⟩ := setBand_blocks (staleRecorded s) (staleBand s)
  refine ⟨hwhole, fun hb => ?_, fun c i f hb hi => ?_, fun c hi => ?_, fun v hv henable hfree => ?_, ?_, ?_,
    hlink.trans (raiseNotice_link ..), hintake.trans (raiseNotice_intake ..), hmap.trans (raiseNotice_map ..), ?_, ?_⟩
  · have hsame : (staleRecorded s).setBand s.band = staleRecorded s := setBand_self (staleRecorded s)
    rw [staleBand_of_other hb, hsame]
    exact raiseNotice_chans ..
  · have hband : s.band = .normal := hb
    rw [hchan, staleBand_of_normal hb, takeBand_of_running hi, hband]
    rfl
  · rw [hchan, takeBand_of_stopped hi]
  · have hlast : tempStale s = ⟨.tempStale, none, BitVec.ofInt 32 v⟩ := by
      unfold tempStale
      rw [hv]
      rfl
    rw [hmgmt, ← hlast]
    refine (mem_raiseNotice ..).2 (Or.inr ⟨rfl, henable, Bool.eq_false_iff.2 fun hany => ?_⟩)
    obtain ⟨m, hm, hkind, -⟩ := (any_samePair_iff _ _).1 hany
    exact hfree m hm hkind
  · rw [hmgmt]
    exact raiseNotice_settings ..
  · rw [hmgmt]
    exact raiseNotice_fault ..
  · rw [hret]
    exact raiseNotice_queue ..
  · rw [hret]
    exact raiseNotice_slots ..

end Sys2Proof.Proofs
end

section
/-! The requests of the part (O8 to O10), counted: the sixth, tenth and fifth laws as equations between numbers, with what a
step holds in hand between its parts; and what each update of the state does to the numbers. -/

namespace Sys2Proof.Proofs

-- One proof after the other, in the memory that the check allows.
set_option Elab.async false

open Sys2Proof Sys2Proof.Machine Sys2Proof.Safety Sys2Proof.Laws

/-- The name of a request: its stream and its tag. -/
abbrev RequestTag := StreamIx × TagIx

/-! ### Counting over the slots, the channels and the streams -/

/-- A list put together index by index changes by what it changes at one index. -/
theorem count_flatMap_update {ι α : Type} [BEq α] {l : List ι} {i : ι} {f g : ι → List α} (hl : l.Nodup)
    (hi : i ∈ l) (h : ∀ j, j ≠ i → g j = f j) (x : α) :
    (l.flatMap g).count x + (f i).count x = (l.flatMap f).count x + (g i).count x := by
  induction l with
  | nil => cases hi
  | cons a l ih =>
    rw [List.flatMap_cons, List.flatMap_cons, List.count_append, List.count_append]
    rw [List.nodup_cons] at hl
    rcases List.mem_cons.1 hi with rfl | hi
    · have hrest : l.flatMap g = l.flatMap f :=
        List.flatMap_congr fun j hj => h j fun e => hl.1 (e ▸ hj)
      rw [hrest]
      omega
    · have hne : a ≠ i := fun e => hl.1 (e ▸ hi)
      rw [h a hne]
      have := ih hl.2 hi
      omega

/-- What the slots hold of some kind, slot by slot. -/
def slotList {α : Type} (f : Slot → Option α) (v : Vector Slot 48) : List α := slotIxs.filterMap fun i => f v[i]

theorem slotIxs_nodup : slotIxs.Nodup := List.nodup_finRange 48

theorem mem_slotIxs (i : SlotIx) : i ∈ slotIxs := List.mem_finRange i

theorem slot_set (v : Vector Slot 48) (i j : SlotIx) (x : Slot) : (v.set i x)[j] = if i = j then x else v[j] := by
  by_cases h : i = j
  · subst h; simp
  · have h' : i.val ≠ j.val := fun e => h (Fin.ext e)
    simp [h, h']

theorem count_slotList_set {α : Type} [BEq α] (f : Slot → Option α) (v : Vector Slot 48) (i : SlotIx) (s : Slot)
    (x : α) : (slotList f (v.set i s)).count x + (f v[i]).toList.count x =
      (slotList f v).count x + (f s).toList.count x := by
  simp only [slotList, List.filterMap_eq_flatMap_toList]
  have h := count_flatMap_update (f := fun j : SlotIx => (f v[j]).toList) (g := fun j : SlotIx => (f (v.set i s)[j]).toList)
    slotIxs_nodup (mem_slotIxs i) (fun j hj => by rw [slot_set, if_neg (Ne.symm hj)]) x
  rwa [slot_set, if_pos rfl] at h

theorem chanIxs_nodup : chanIxs.Nodup := by decide

theorem streamIxs_nodup : streamIxs.Nodup := by decide

theorem mem_streamIxs : ∀ i : StreamIx, i ∈ streamIxs := by decide

/-- What the two channels hold of some kind. -/
def chanList {α : Type} (f : Channel → List α) (s : State) : List α := chanIxs.flatMap fun c => f (s.chan c)

theorem count_chanList_modChan {α : Type} [BEq α] (f : Channel → List α) (s : State) (c : Chan)
    (k : Channel → Channel) (x : α) : (chanList f (s.modChan c k)).count x + (f (s.chan c)).count x =
      (chanList f s).count x + (f (k (s.chan c))).count x := by
  have h := count_flatMap_update (f := fun d => f (s.chan d)) (g := fun d => f ((s.modChan c k).chan d)) chanIxs_nodup
    (mem_chanIxs c) (fun d hd => by rw [State.chan_modChan_ne _ _ (Ne.symm hd)]) x
  rwa [State.chan_modChan_same] at h

theorem chanList_congr {α : Type} {f : Channel → List α} {s t : State} (h : ∀ c, f (t.chan c) = f (s.chan c)) :
    chanList f t = chanList f s :=
  List.flatMap_congr fun c _ => h c

theorem count_chanList {α : Type} [BEq α] (f : Channel → List α) (s : State) (x : α) :
    (chanList f s).count x = (f (s.chan 0)).count x + (f (s.chan 1)).count x := by
  simp [chanList, chanIxs, List.count_append]

theorem mem_chanList {α : Type} {f : Channel → List α} {s : State} {x : α} :
    x ∈ chanList f s ↔ ∃ c, x ∈ f (s.chan c) := by
  simp only [chanList, List.mem_flatMap]
  exact ⟨fun ⟨c, _, h⟩ => ⟨c, h⟩, fun ⟨c, h⟩ => ⟨c, mem_chanIxs c, h⟩⟩

/-- What the flush lists hold. -/
def flushTags (s : State) : List RequestTag := streamIxs.flatMap fun i => (s.stream i).flushes.map fun f => (i, f.tag)

theorem count_flushTags_modStream (s : State) (i : StreamIx) (k : StreamEntry → StreamEntry) (x : RequestTag) :
    (flushTags (s.modStream i k)).count x + ((s.stream i).flushes.map fun f => (i, f.tag)).count x =
      (flushTags s).count x + ((k (s.stream i)).flushes.map fun f => (i, f.tag)).count x := by
  have h := count_flatMap_update (f := fun j => (s.stream j).flushes.map fun f => (j, f.tag))
    (g := fun j => ((s.modStream i k).stream j).flushes.map fun f => (j, f.tag)) streamIxs_nodup (mem_streamIxs i)
    (fun j hj => by rw [State.stream_modStream, if_neg (Ne.symm hj)]) x
  rw [State.stream_modStream, if_pos rfl] at h
  exact h

/-! ### The tenth law, with requests in hand -/

/-- The WRITEs of a pool and the answerable long command, by their tags. -/
def chanTags (x : Channel) : List RequestTag := (poolWrites x).map (fun e => (e.stream, e.tag)) ++ longTags x

/-- The request of a slot that is RESERVED. -/
def slotTag (x : Slot) : Option RequestTag := (Slot.reservedFor x).map fun r => (r.stream, r.tag)

/-- The tags of a list of responses. -/
def respTags (l : List Response) : List RequestTag := l.map fun r => (r.stream, r.tag)

/-- How often a request is owed a response. -/
theorem count_owedTags (s : State) (x : RequestTag) : (owedTags s).count x =
    (s.intake.queue.map fun q => (q.packet.stream, q.packet.tag)).count x + (chanList chanTags s).count x
      + (slotList slotTag s.ret.slots).count x + (flushTags s).count x + (respTags s.ret.queue).count x := by
  have hslots : (slotIxs.filterMap fun i => Slot.reservedFor s.ret.slots[i]).map (fun r => (r.stream, r.tag)) =
      slotList slotTag s.ret.slots := by
    rw [slotList, List.map_filterMap]
    rfl
  unfold owedTags
  rw [hslots]
  simp only [List.count_append]
  rfl

/-- The tenth law while a step holds the requests `h` in hand: taken from one place and not yet put in another. -/
def OwedWith (h : List RequestTag) (s : State) : Prop :=
  ∀ x, s.intake.tags.count x = h.count x + (owedTags s).count x

theorem owedLaw_iff (s : State) : OwedLaw s ↔ OwedWith [] s := by
  unfold OwedLaw OwedWith
  rw [List.perm_iff_count]
  simp

/-- No request is owed twice, in hand or elsewhere. -/
theorem owed_le_one {h : List RequestTag} {s : State} (ht : TagLaw s) (ho : OwedWith h s) (x : RequestTag) :
    h.count x + (owedTags s).count x ≤ 1 := by
  rw [← ho x]
  exact List.nodup_iff_count_le_one.1 ht x

/-! ### The fifth law, with stamps in hand -/

/-- The stamps of a channel: the WRITEs of its pool, and a discarded write on its bus. -/
def chanStamps (x : Channel) : List Epoch := (poolWrites x).map (·.epoch) ++ (discardedStamp x).toList

/-- The stamps of the WRITE_DONEs among responses. -/
def respStamps (l : List Response) : List Epoch := l.filterMap Response.writeStamp

/-- The stamps of the requests that have not retired, the WRITE_DONEs apart. -/
def unsentStamps (s : State) : List Epoch := chanList chanStamps s ++ slotList Slot.epoch s.ret.slots

theorem count_stamps (s : State) (x : Epoch) :
    (stamps s).count x = (unsentStamps s).count x + (respStamps s.ret.queue).count x := by
  unfold stamps unsentStamps
  rw [List.count_append]
  rfl

theorem count_unsentStamps (s : State) (x : Epoch) : (unsentStamps s).count x =
    (chanList chanStamps s).count x + (slotList Slot.epoch s.ret.slots).count x := List.count_append

/-- How many requests of an epoch the map counts. -/
def outstanding (m : MapUnit) (e : Epoch) : Nat :=
  if e = m.epoch then m.current else if e = m.epoch - 1 then m.previous else 0

/-- The outstanding counts count the stamps `e` in hand and those of the state, the WRITE_DONEs apart. -/
def UnsentCounted (e : List Epoch) (s : State) : Prop :=
  ∀ x, e.count x + (unsentStamps s).count x = outstanding s.map x

/-- The outstanding counts count the stamps in hand and those of the state. -/
def Counted (e : List Epoch) (s : State) : Prop := UnsentCounted (respStamps s.ret.queue ++ e) s

theorem counted_iff {e : List Epoch} {s : State} : Counted e s ↔
    ∀ x, e.count x + (unsentStamps s).count x + (respStamps s.ret.queue).count x = outstanding s.map x := by
  unfold Counted UnsentCounted
  refine forall_congr' fun x => ?_
  rw [List.count_append]
  constructor <;> intro h <;> omega

/-- The stamps that one request holds in two places agree. -/
def Linked (s : State) : Prop :=
  (∀ c : Chan, ∀ e ∈ (s.chan c).pool, ∀ i, e.kind = .read i → Slot.epoch s.ret.slots[i] = some e.epoch) ∧
  (∀ r ∈ s.ret.queue, ∀ e i, r.body = .readData e i → Slot.epoch s.ret.slots[i] = some e) ∧
  (∀ r ∈ s.ret.queue, ∀ e c w, r.body = .writeDone e c → (s.chan c).writeBurst = some w →
    w.discard = false ∧ (w.carries r = true → e = w.epoch))

theorem epoch_sub_one_ne : ∀ e : Epoch, e - 1 ≠ e := by decide

theorem outstanding_epoch (m : MapUnit) : outstanding m m.epoch = m.current := if_pos rfl

theorem outstanding_before (m : MapUnit) : outstanding m (m.epoch - 1) = m.previous := by
  rw [outstanding, if_neg (epoch_sub_one_ne _), if_pos rfl]

theorem outstanding_other {m : MapUnit} {e : Epoch} (h : e ≠ m.epoch) (h' : e ≠ m.epoch - 1) : outstanding m e = 0 := by
  rw [outstanding, if_neg h, if_neg h']

/-- The fifth law is the count of the stamps, and the agreement of the stamps. -/
theorem epochLaw_iff (s : State) : EpochLaw s ↔ Counted [] s ∧ Linked s := by
  have hcounted : Counted [] s ↔ (∀ e ∈ stamps s, e = s.map.epoch ∨ e = s.map.epoch - 1) ∧
      s.map.current = (stamps s).count s.map.epoch ∧ s.map.previous = (stamps s).count (s.map.epoch - 1) := by
    rw [counted_iff]
    simp only [List.count_nil, Nat.zero_add, ← count_stamps]
    constructor
    · intro h
      refine ⟨fun e he => ?_, ?_, ?_⟩
      · by_contra hne
        rw [not_or] at hne
        have h0 := (h e).trans (outstanding_other hne.1 hne.2)
        exact absurd he (List.count_eq_zero.1 h0)
      · rw [h, outstanding_epoch]
      · rw [h, outstanding_before]
    · rintro ⟨hmem, hcur, hprev⟩ x
      unfold outstanding
      split
      · next hx => rw [hx, hcur]
      · split
        · next hx => rw [hx, hprev]
        · next h1 h2 => exact List.count_eq_zero.2 fun hx => (hmem x hx).elim h1 h2
  unfold EpochLaw Linked
  rw [hcounted, and_assoc, and_assoc]

/-! ### The sixth law, slot by slot -/

/-- How often a slot is named by reads in the pools. -/
def poolCount (s : State) (i : SlotIx) : Nat := (chanList poolSlots s).count i

/-- How often a slot is named by issued reads. -/
def issuedCount (s : State) (i : SlotIx) : Nat := (chanList issuedSlots s).count i

/-- The slot that a response names. -/
def Response.slot (r : Response) : Option SlotIx :=
  match r.body with
  | .readData _ i => some i
  | _ => none

/-- How often a slot is named by READ_DATA responses. -/
def queueCount (l : List Response) (i : SlotIx) : Nat := (l.filterMap Response.slot).count i

/-- The sixth law at one slot. -/
def SlotOk (s : State) (i : SlotIx) : Prop :=
  poolCount s i + issuedCount s i + queueCount s.ret.queue i ≤ 1 ∧
  (0 < poolCount s i → Slot.isReserved s.ret.slots[i] = true) ∧
  (Slot.waits s.ret.slots[i] = true ↔ 0 < poolCount s i + issuedCount s i) ∧
  (Slot.isFilled s.ret.slots[i] = true ↔ 0 < queueCount s.ret.queue i)

theorem queueSlots_eq (r : ReturnUnit) : queueSlots r = r.queue.filterMap Response.slot := rfl

theorem slotLaw_iff (s : State) : SlotLaw s ↔ ∀ i, SlotOk s i := by
  have hpool : ∀ i, 0 < poolCount s i ↔ ∃ c, i ∈ poolSlots (s.chan c) := fun i => by
    rw [poolCount, List.count_pos_iff, mem_chanList]
  have hissued : ∀ i, 0 < issuedCount s i ↔ ∃ c, i ∈ issuedSlots (s.chan c) := fun i => by
    rw [issuedCount, List.count_pos_iff, mem_chanList]
  have hqueue : ∀ i, 0 < queueCount s.ret.queue i ↔ i ∈ queueSlots s.ret := fun i => by
    rw [queueCount, List.count_pos_iff, queueSlots_eq]
  have hcount : ∀ i, (poolSlots (s.chan 0) ++ issuedSlots (s.chan 0) ++ poolSlots (s.chan 1) ++ issuedSlots (s.chan 1)
      ++ queueSlots s.ret).count i = poolCount s i + issuedCount s i + queueCount s.ret.queue i := fun i => by
    simp only [List.count_append, poolCount, issuedCount, queueCount, count_chanList, queueSlots_eq]
    omega
  have hflight : ∀ i, (∃ c : Chan, i ∈ poolSlots (s.chan c) ∨ i ∈ issuedSlots (s.chan c)) ↔
      0 < poolCount s i + issuedCount s i := fun i => by
    rw [Nat.add_pos_iff_pos_or_pos, hpool, hissued, ← exists_or]
  unfold SlotLaw SlotOk
  simp only [List.nodup_iff_count_le_one, hcount, hflight, ← hqueue]
  constructor
  · rintro ⟨h1, h2, h3, h4⟩ i
    exact ⟨h1 i, fun hp => (hpool i).1 hp |>.elim fun c hc => h2 c i hc, h3 i, h4 i⟩
  · intro h
    exact ⟨fun i => (h i).1, fun c i hi => (h i).2.1 ((hpool i).2 ⟨c, hi⟩), fun i => (h i).2.2.1, fun i => (h i).2.2.2⟩

/-! ### The requests kept -/

/-- A step, or a part of one, keeps the laws of requests, with the tags and stamps that it takes in hand. -/
structure ReqKept (h : List RequestTag × List Epoch) (s : State) (k : List RequestTag × List Epoch) (t : State) : Prop where
  tag : TagLaw s → TagLaw t
  slot : SlotLaw s → SlotLaw t
  owed : SlotLaw s → OwedWith h.1 s → OwedWith k.1 t
  stamp : TagLaw s → SlotLaw s → OwedWith h.1 s → Counted h.2 s → Linked s → Counted k.2 t ∧ Linked t

theorem ReqKept.trans {h k l : List RequestTag × List Epoch} {s t u : State} (a : ReqKept h s k t)
    (b : ReqKept k t l u) : ReqKept h s l u where
  tag := b.tag ∘ a.tag
  slot := b.slot ∘ a.slot
  owed hs ho := b.owed (a.slot hs) (a.owed hs ho)
  stamp ht hs ho hc hl := by
    obtain ⟨hc', hl'⟩ := a.stamp ht hs ho hc hl
    exact b.stamp (a.tag ht) (a.slot hs) (a.owed hs ho) hc' hl'

/-- A channel's part in the reads and the stamps is the same. -/
structure SameBus (x y : Channel) : Prop where
  pool : y.pool = x.pool := by exact rfl
  issued : y.issued = x.issued := by exact rfl
  writeBurst : y.writeBurst = x.writeBurst := by exact rfl

/-- A channel's part in the requests is the same. -/
structure SameChannel (x y : Channel) : Prop extends SameBus x y where
  longCmd : y.longCmd = x.longCmd := by exact rfl

/-- The reads and the stamps stand where they stood. -/
structure SameReads (s t : State) : Prop where
  slots : t.ret.slots = s.ret.slots := by exact rfl
  responses : t.ret.queue = s.ret.queue := by exact rfl
  buses : ∀ c, SameBus (s.chan c) (t.chan c) := by exact fun _ => {}

/-- The places where requests stand hold the same. -/
structure SamePlaces (s t : State) : Prop where
  tags : t.intake.tags = s.intake.tags := by exact rfl
  queue : t.intake.queue = s.intake.queue := by exact rfl
  flushes : ∀ i, (t.stream i).flushes = (s.stream i).flushes := by exact fun _ => rfl
  slots : t.ret.slots = s.ret.slots := by exact rfl
  responses : t.ret.queue = s.ret.queue := by exact rfl
  chans : ∀ c, SameChannel (s.chan c) (t.chan c) := by exact fun _ => {}

section Same

variable {s t : State}

theorem SamePlaces.reads (h : SamePlaces s t) : SameReads s t :=
  ⟨h.slots, h.responses, fun c => (h.chans c).toSameBus⟩

theorem SameReads.poolCount (h : SameReads s t) (i : SlotIx) : poolCount t i = poolCount s i := by
  have hslots : chanList Safety.poolSlots t = chanList Safety.poolSlots s := chanList_congr fun c => by
    unfold Safety.poolSlots
    rw [(h.buses c).pool]
  rw [Proofs.poolCount, hslots, Proofs.poolCount]

theorem SameReads.issuedCount (h : SameReads s t) (i : SlotIx) : issuedCount t i = issuedCount s i := by
  have hslots : chanList Safety.issuedSlots t = chanList Safety.issuedSlots s := chanList_congr fun c => by
    unfold Safety.issuedSlots
    rw [(h.buses c).issued]
  rw [Proofs.issuedCount, hslots, Proofs.issuedCount]

theorem SameReads.slotLaw (h : SameReads s t) (hs : SlotLaw s) : SlotLaw t := by
  refine (slotLaw_iff t).2 fun i => ?_
  have hi := (slotLaw_iff s).1 hs i
  unfold SlotOk at hi ⊢
  rwa [h.poolCount, h.issuedCount, h.responses, h.slots]

theorem SameReads.unsentStamps (h : SameReads s t) : unsentStamps t = unsentStamps s := by
  have hstamps : chanList chanStamps t = chanList chanStamps s := chanList_congr fun c => by
    unfold chanStamps poolWrites discardedStamp
    rw [(h.buses c).pool, (h.buses c).writeBurst]
  rw [Proofs.unsentStamps, h.slots, hstamps, Proofs.unsentStamps]

theorem SameReads.linked (h : SameReads s t) : Linked s → Linked t := by
  rintro ⟨h1, h2, h3⟩
  refine ⟨fun c e he i hi => ?_, fun r hr e i hi => ?_, fun r hr e c w hb hw => ?_⟩
  · rw [h.slots]; exact h1 c e ((h.buses c).pool ▸ he) i hi
  · rw [h.slots]; exact h2 r (h.responses ▸ hr) e i hi
  · exact h3 r (h.responses ▸ hr) e c w hb ((h.buses c).writeBurst ▸ hw)

theorem SamePlaces.owedTags (h : SamePlaces s t) : owedTags t = owedTags s := by
  have hchan : ∀ c, (poolWrites (t.chan c)).map (fun e => (e.stream, e.tag)) ++ longTags (t.chan c) =
      (poolWrites (s.chan c)).map (fun e => (e.stream, e.tag)) ++ longTags (s.chan c) := fun c => by
    unfold poolWrites longTags
    rw [(h.chans c).pool, (h.chans c).longCmd]
  unfold Safety.owedTags
  rw [h.queue, h.slots, h.responses]
  simp only [hchan, h.flushes]

/-- A change of the map's counts that moves stamps between them and what is in hand. -/
theorem req_places (h : SamePlaces s t) {es es' : List Epoch} (k : List RequestTag)
    (hmap : ∀ n : Epoch → Nat, (∀ x, es.count x + n x = outstanding s.map x) →
      ∀ x, es'.count x + n x = outstanding t.map x) : ReqKept (k, es) s (k, es') t where
  tag ht := by unfold TagLaw; rw [h.tags]; exact ht
  slot := h.reads.slotLaw
  owed _ ho x := by rw [h.tags, h.owedTags]; exact ho x
  stamp _ _ _ hc hl := by
    refine ⟨counted_iff.2 fun x => ?_, h.reads.linked hl⟩
    rw [h.responses, h.reads.unsentStamps, Nat.add_assoc]
    exact hmap _ (fun x => by rw [← Nat.add_assoc]; exact counted_iff.1 hc x) x

theorem req_same (k : List RequestTag × List Epoch) (h : SamePlaces s t := by exact {})
    (hm : t.map = s.map := by exact rfl) : ReqKept k s k t :=
  req_places h k.1 fun _ hn => by rw [hm]; exact hn

end Same

theorem ReqKept.refl (k : List RequestTag × List Epoch) (s : State) : ReqKept k s k s := req_same k

/-- A change of a channel that leaves its part in the requests. -/
theorem req_modChan {s : State} {c : Chan} {f : Channel → Channel} (k : List RequestTag × List Epoch)
    (h : SameChannel (s.chan c) (f (s.chan c)) := by exact {}) : ReqKept k s k (s.modChan c f) := by
  refine req_same k { chans := fun d => ?_ }
  rw [State.chan_modChan]
  split
  · next hd => exact hd ▸ h
  · exact {}

theorem samePlaces_raiseNotice (s : State) (n : Notice) : SamePlaces s (s.raiseNotice n) where
  tags := by rw [raiseNotice_intake]
  queue := by rw [raiseNotice_intake]
  flushes i := by rw [raiseNotice_stream]
  slots := by rw [raiseNotice_slots]
  responses := by rw [raiseNotice_queue]
  chans c := by rw [raiseNotice_chan]; exact {}

theorem req_raiseNotice (s : State) (n : Notice) (k : List RequestTag × List Epoch) : ReqKept k s k (s.raiseNotice n) :=
  req_same k (samePlaces_raiseNotice s n) (raiseNotice_map s n)

theorem req_raiseBoth (s : State) (n : Notice) (k : List RequestTag × List Epoch) : ReqKept k s k (s.raiseBoth n) :=
  (req_same (t := s.raiseFault n) k).trans (req_raiseNotice _ n k)

end Sys2Proof.Proofs
end

section
/-! The requests kept (O8 to O10) by the operations that the meanings share: a response handed over, a retirement, a change
of a channel, the end of a long command, and the settling of a channel. -/

namespace Sys2Proof.Proofs

-- One proof after the other, in the memory that the check allows.
set_option Elab.async false

open Sys2Proof Sys2Proof.Machine Sys2Proof.Safety Sys2Proof.Laws

/-! ### Responses -/

theorem count_cons_single {α : Type} [BEq α] (a : α) (l : List α) (x : α) :
    (a :: l).count x = l.count x + [a].count x := by
  rw [List.count_cons, List.count_singleton]

theorem filterMap_single {α β : Type} (f : α → Option β) (a : α) : [a].filterMap f = (f a).toList := by
  rw [List.filterMap_eq_flatMap_toList, List.flatMap_singleton]

theorem queueCount_append (l : List Response) (r : Response) (i : SlotIx) :
    queueCount (l ++ [r]) i = queueCount l i + (Response.slot r).toList.count i := by
  unfold queueCount
  rw [List.filterMap_append, List.count_append, filterMap_single]

theorem count_respTags_append (l : List Response) (r : Response) (x : RequestTag) :
    (respTags (l ++ [r])).count x = (respTags l).count x + [(r.stream, r.tag)].count x := by
  unfold respTags
  rw [List.map_append, List.count_append]
  rfl

theorem count_respStamps_append (l : List Response) (r : Response) (x : Epoch) :
    (respStamps (l ++ [r])).count x = (respStamps l).count x + (Response.writeStamp r).toList.count x := by
  unfold respStamps
  rw [List.filterMap_append, List.count_append, filterMap_single]

theorem slot_of_readData {r : Response} {e : Epoch} {i : SlotIx} (h : r.body = .readData e i) :
    Response.slot r = some i := by
  unfold Response.slot
  rw [h]

/-- The request in hand goes to the queue. -/
theorem owedWith_handOver {s : State} {r : Response} {h : List RequestTag}
    (ho : OwedWith ((r.stream, r.tag) :: h) s) : OwedWith h (s.handOver r) := by
  intro x
  have hx := ho x
  rw [count_owedTags, count_cons_single] at hx
  rw [count_owedTags]
  have hq := count_respTags_append s.ret.queue r x
  show s.intake.tags.count x = h.count x + ((s.intake.queue.map fun q => (q.packet.stream, q.packet.tag)).count x +
    (chanList chanTags s).count x + (slotList slotTag s.ret.slots).count x + (flushTags s).count x +
    (respTags (s.ret.queue ++ [r])).count x)
  omega

/-- The stamp of a WRITE_DONE in hand goes to the queue. -/
theorem counted_handOver {s : State} {r : Response} {es : List Epoch}
    (hc : Counted ((Response.writeStamp r).toList ++ es) s) : Counted es (s.handOver r) := by
  refine counted_iff.2 fun x => ?_
  have hx := counted_iff.1 hc x
  rw [List.count_append] at hx
  have hq := count_respStamps_append s.ret.queue r x
  show es.count x + (unsentStamps s).count x + (respStamps (s.ret.queue ++ [r])).count x = outstanding s.map x
  omega

theorem linked_handOver {s : State} {r : Response}
    (hdata : ∀ e i, r.body = .readData e i → Slot.epoch s.ret.slots[i] = some e)
    (hburst : ∀ e c w, r.body = .writeDone e c → (s.chan c).writeBurst = some w →
      w.discard = false ∧ (w.carries r = true → e = w.epoch)) (hl : Linked s) : Linked (s.handOver r) := by
  refine ⟨hl.1, fun q hq e i hb => ?_, fun q hq e c w hb hw => ?_⟩
  · rcases List.mem_append.1 hq with hq | hq
    · exact hl.2.1 q hq e i hb
    · rw [List.mem_singleton.1 hq] at hb
      exact hdata e i hb
  · rcases List.mem_append.1 hq with hq | hq
    · exact hl.2.2 q hq e c w hb hw
    · rw [List.mem_singleton.1 hq] at hb ⊢
      exact hburst e c w hb hw

/-- A response that names no slot is handed over: the request and the stamp in hand go to the queue. -/
theorem req_handOver {s : State} {r : Response} (hslot : Response.slot r = none)
    (hburst : ∀ e c w, r.body = .writeDone e c → (s.chan c).writeBurst = some w →
      w.discard = false ∧ (w.carries r = true → e = w.epoch)) (h : List RequestTag) (es : List Epoch) :
    ReqKept ((r.stream, r.tag) :: h, (Response.writeStamp r).toList ++ es) s (h, es) (s.handOver r) where
  tag := id
  slot hs := (slotLaw_iff _).2 fun i => by
    have hi := (slotLaw_iff s).1 hs i
    have hq : queueCount (s.handOver r).ret.queue i = queueCount s.ret.queue i := by
      refine (queueCount_append _ _ _).trans ?_
      rw [hslot]
      rfl
    unfold SlotOk at hi ⊢
    rw [hq]
    exact hi
  owed _ := owedWith_handOver
  stamp _ _ _ hc hl := by
    refine ⟨counted_handOver hc, linked_handOver (fun e i hb => ?_) hburst hl⟩
    rw [slot_of_readData hb] at hslot
    cases hslot

/-- A response that is neither READ_DATA nor WRITE_DONE. -/
def Response.isPlain (r : Response) : Bool :=
  match r.body with
  | .readData _ _ => false
  | .writeDone _ _ => false
  | _ => true

theorem plain_slot {r : Response} (h : Response.isPlain r = true) : Response.slot r = none := by
  unfold Response.isPlain at h
  unfold Response.slot
  cases hb : r.body <;> simp_all

theorem plain_writeStamp {r : Response} (h : Response.isPlain r = true) : Response.writeStamp r = none := by
  unfold Response.isPlain at h
  unfold Response.writeStamp
  cases hb : r.body <;> simp_all

theorem plain_writeDone {r : Response} (h : Response.isPlain r = true) (e : Epoch) (c : Chan) :
    r.body ≠ .writeDone e c := by
  intro hb
  simp [Response.isPlain, hb] at h

theorem req_handOver_plain (s : State) {r : Response} (hr : Response.isPlain r = true) (h : List RequestTag)
    (es : List Epoch) : ReqKept ((r.stream, r.tag) :: h, es) s (h, es) (s.handOver r) := by
  have hkept := req_handOver (s := s) (plain_slot hr) (fun e c _ hb => absurd hb (plain_writeDone hr e c)) h es
  rwa [plain_writeStamp hr] at hkept

/-! ### Retirements -/

/-- A stamp that is counted among the outstanding leaves its count with the retirement. -/
theorem outstanding_retire {s : State} {e : Epoch} {es : List Epoch} {n : Epoch → Nat}
    (h : ∀ x, (e :: es).count x + n x = outstanding s.map x) (x : Epoch) :
    es.count x + n x = outstanding (s.retire e).map x := by
  have hx := h x
  have he := h e
  rw [List.count_cons_self] at he
  rw [List.count_cons] at hx
  by_cases hcur : e = s.map.epoch
  · rw [retire_map_current hcur]
    unfold outstanding at hx he ⊢
    rw [if_pos hcur] at he
    dsimp only
    by_cases hxe : x = s.map.epoch
    · rw [if_pos hxe] at hx ⊢
      rw [if_pos (by rw [hcur, hxe]; exact beq_self_eq_true _)] at hx
      omega
    · rw [if_neg hxe] at hx ⊢
      rw [if_neg (fun hb => hxe (by rw [← beq_iff_eq.1 hb, hcur]))] at hx
      omega
  · rw [retire_map_previous hcur]
    unfold outstanding at hx he ⊢
    rw [if_neg hcur] at he
    dsimp only
    by_cases hprev : e = s.map.epoch - 1
    · rw [if_pos hprev] at he
      by_cases hxe : x = s.map.epoch
      · rw [if_pos hxe] at hx ⊢
        rw [if_neg (fun hb => hcur (by rw [beq_iff_eq.1 hb, hxe]))] at hx
        omega
      · rw [if_neg hxe] at hx ⊢
        by_cases hxp : x = s.map.epoch - 1
        · rw [if_pos hxp] at hx ⊢
          rw [if_pos (by rw [hprev, hxp]; exact beq_self_eq_true _)] at hx
          omega
        · rw [if_neg hxp] at hx ⊢
          omega
    · rw [if_neg hprev] at he
      omega

theorem samePlaces_retire (s : State) (e : Epoch) : SamePlaces s (s.retire e) where
  tags := by rw [retire_intake]
  queue := by rw [retire_intake]
  flushes i := by rw [retire_stream]
  slots := retire_slots s e
  responses := retire_queue s e
  chans c := by rw [retire_chan]; exact {}

/-- The retirement of a request whose stamp is in hand. -/
theorem req_retire (s : State) (e : Epoch) (h : List RequestTag) (es : List Epoch) :
    ReqKept (h, e :: es) s (h, es) (s.retire e) :=
  req_places (samePlaces_retire s e) h fun _ hn => outstanding_retire hn

theorem req_raiseDrained (s : State) (k : List RequestTag × List Epoch) : ReqKept k s k s.raiseDrained :=
  req_raiseNotice s _ k

/-! ### A change of a channel -/

section Channel

variable {s : State} {c : Chan} {f : Channel → Channel}

theorem poolCount_modChan (i : SlotIx) : poolCount (s.modChan c f) i + (poolSlots (s.chan c)).count i =
    poolCount s i + (poolSlots (f (s.chan c))).count i :=
  count_chanList_modChan poolSlots s c f i

theorem issuedCount_modChan (i : SlotIx) : issuedCount (s.modChan c f) i + (issuedSlots (s.chan c)).count i =
    issuedCount s i + (issuedSlots (f (s.chan c))).count i :=
  count_chanList_modChan issuedSlots s c f i

/-- Reads may go from the pool of a channel to its issued reads. -/
theorem slotLaw_modChan (hsum : ∀ i, (poolSlots (f (s.chan c))).count i + (issuedSlots (f (s.chan c))).count i =
      (poolSlots (s.chan c)).count i + (issuedSlots (s.chan c)).count i)
    (hpool : ∀ i, (poolSlots (f (s.chan c))).count i ≤ (poolSlots (s.chan c)).count i) (hs : SlotLaw s) :
    SlotLaw (s.modChan c f) := by
  refine (slotLaw_iff _).2 fun i => ?_
  obtain ⟨hone, hreserved, hwaits, hfilled⟩ := (slotLaw_iff s).1 hs i
  have hp := poolCount_modChan (s := s) (c := c) (f := f) i
  have hi := issuedCount_modChan (s := s) (c := c) (f := f) i
  have hle := hpool i
  have hadd := hsum i
  have htotal : poolCount (s.modChan c f) i + issuedCount (s.modChan c f) i = poolCount s i + issuedCount s i := by omega
  unfold SlotOk
  rw [htotal]
  exact ⟨hone, fun hpos => hreserved (by omega), hwaits, hfilled⟩

theorem count_owedTags_modChan (x : RequestTag) : (owedTags (s.modChan c f)).count x + (chanTags (s.chan c)).count x =
    (owedTags s).count x + (chanTags (f (s.chan c))).count x := by
  have h := count_chanList_modChan chanTags s c f x
  rw [count_owedTags, count_owedTags]
  show (s.intake.queue.map fun q => (q.packet.stream, q.packet.tag)).count x +
      (chanList chanTags (s.modChan c f)).count x + (slotList slotTag s.ret.slots).count x + (flushTags s).count x +
      (respTags s.ret.queue).count x + _ = _
  omega

theorem count_unsentStamps_modChan (x : Epoch) :
    (unsentStamps (s.modChan c f)).count x + (chanStamps (s.chan c)).count x =
      (unsentStamps s).count x + (chanStamps (f (s.chan c))).count x := by
  have h := count_chanList_modChan chanStamps s c f x
  rw [count_unsentStamps, count_unsentStamps]
  show (chanList chanStamps (s.modChan c f)).count x + (slotList Slot.epoch s.ret.slots).count x + _ = _
  omega

/-- A change of a channel, with what it takes in hand and puts down. -/
theorem req_channel {h k : List RequestTag} {es fs : List Epoch} (hslot : SlotLaw s → SlotLaw (s.modChan c f))
    (howed : ∀ x, k.count x + (chanTags (f (s.chan c))).count x = h.count x + (chanTags (s.chan c)).count x)
    (hstamp : ∀ x, fs.count x + (chanStamps (f (s.chan c))).count x = es.count x + (chanStamps (s.chan c)).count x)
    (hlinked : TagLaw s → OwedWith h s → Linked s → Linked (s.modChan c f)) :
    ReqKept (h, es) s (k, fs) (s.modChan c f) where
  tag := id
  slot := hslot
  owed _ ho x := by
    have hx := ho x
    have hc := count_owedTags_modChan (s := s) (c := c) (f := f) x
    have hk := howed x
    show s.intake.tags.count x = _
    dsimp only at hx ⊢
    omega
  stamp ht _ ho hc hl := by
    refine ⟨counted_iff.2 fun x => ?_, hlinked ht ho hl⟩
    have hx := counted_iff.1 hc x
    have hm := count_unsentStamps_modChan (s := s) (c := c) (f := f) x
    have hk := hstamp x
    show fs.count x + _ + (respStamps s.ret.queue).count x = outstanding s.map x
    dsimp only at hx
    omega

/-- The stamps agree after a change of a channel that keeps its reads, and its burst or a burst as the law asks. -/
theorem linked_modChan (hpool : ∀ e ∈ (f (s.chan c)).pool, ∀ i, e.kind = .read i →
      (∃ o ∈ (s.chan c).pool, o.kind = .read i ∧ o.epoch = e.epoch) ∨ Slot.epoch s.ret.slots[i] = some e.epoch)
    (hburst : ∀ w, (f (s.chan c)).writeBurst = some w → (s.chan c).writeBurst = some w ∨
      ∀ r ∈ s.ret.queue, ∀ e, r.body = .writeDone e c → w.discard = false ∧ (w.carries r = true → e = w.epoch))
    (hl : Linked s) : Linked (s.modChan c f) := by
  obtain ⟨hreads, hdata, hdone⟩ := hl
  refine ⟨fun d e he i hi => ?_, hdata, fun r hr e d w hb hw => ?_⟩
  · rw [State.chan_modChan] at he
    split at he
    · next hd =>
      subst hd
      rcases hpool e he i hi with ⟨o, ho, hk, hepoch⟩ | hslot
      · rw [← hepoch]
        exact hreads _ o ho i hk
      · exact hslot
    · exact hreads d e he i hi
  · rw [State.chan_modChan] at hw
    split at hw
    · next hd =>
      subst hd
      rcases hburst w hw with hw | hw
      · exact hdone r hr e _ w hb hw
      · exact hw r hr e hb
    · exact hdone r hr e d w hb hw

/-- A change of the long command alone. -/
theorem req_longCmd {h k : List RequestTag} (es : List Epoch) (hp : (f (s.chan c)).pool = (s.chan c).pool)
    (hi : (f (s.chan c)).issued = (s.chan c).issued) (hw : (f (s.chan c)).writeBurst = (s.chan c).writeBurst)
    (howed : ∀ x, k.count x + (longTags (f (s.chan c))).count x = h.count x + (longTags (s.chan c)).count x) :
    ReqKept (h, es) s (k, es) (s.modChan c f) := by
  have hpool : poolSlots (f (s.chan c)) = poolSlots (s.chan c) := by unfold poolSlots; rw [hp]
  have hissued : issuedSlots (f (s.chan c)) = issuedSlots (s.chan c) := by unfold issuedSlots; rw [hi]
  have hwrites : poolWrites (f (s.chan c)) = poolWrites (s.chan c) := by unfold poolWrites; rw [hp]
  refine req_channel (slotLaw_modChan (fun i => by rw [hpool, hissued]) (fun i => by rw [hpool])) (fun x => ?_)
    (fun x => ?_) fun _ _ hl => linked_modChan (fun e he i hk => Or.inl ⟨e, hp ▸ he, hk, rfl⟩) (fun w hb => Or.inl (hw ▸ hb)) hl
  · have hx := howed x
    unfold chanTags
    rw [hwrites, List.count_append, List.count_append]
    omega
  · unfold chanStamps discardedStamp
    rw [hwrites, hw]

end Channel

/-! ### Long commands, and the settling of a channel -/

theorem longTags_none {x : Channel} (h : x.longCmd = none) : longTags x = [] := by
  unfold longTags
  rw [h]

/-- The end of a long command: its request goes to the queue if it is still answerable. -/
theorem req_endLong (s : State) (c : Chan) (code : MgmtCode) (k : List RequestTag × List Epoch) :
    ReqKept k s k (s.endLong c code) := by
  unfold State.endLong
  split
  · exact ReqKept.refl k s
  · next r hr =>
    have hrecord : ReqKept k s (longTags (s.chan c) ++ k.1, k.2) (s.modChan c fun x => { x with longCmd := none }) :=
      req_longCmd k.2 rfl rfl rfl fun x => by
        show (longTags (s.chan c) ++ k.1).count x + 0 = k.1.count x + (longTags (s.chan c)).count x
        rw [List.count_append]
        omega
    have htags : longTags (s.chan c) = if r.answerable then [(r.stream, r.tag)] else [] := by
      unfold longTags
      rw [hr]
    dsimp only
    split
    · next ha =>
      rw [htags, if_pos ha] at hrecord
      exact hrecord.trans (req_handOver_plain _ (r := ⟨r.stream, r.tag, r.order, .mgmtResp code none, false⟩) rfl k.1 k.2)
    · next ha =>
      rw [htags, if_neg ha] at hrecord
      exact hrecord

/-- A long command enters the record of a channel that has none. -/
theorem req_beginLong {s : State} {c : Chan} (q : QueuedPacket) (command : LongCommand)
    (hnone : (s.chan c).longCmd = none) (h : List RequestTag) (es : List Epoch) :
    ReqKept ((q.packet.stream, q.packet.tag) :: h, es) s (h, es) (s.beginLong c q command) :=
  req_longCmd es rfl rfl rfl fun x => by
    rw [longTags_none hnone]
    show h.count x + List.count x [(q.packet.stream, q.packet.tag)] = _
    rw [List.count_cons, List.count_cons, List.count_nil]
    omega

theorem sameChannel_judgeIdle (x : Channel) (now : Nat) : SameChannel x (x.judgeIdle now) := by
  rw [judgeIdle_frame]
  exact {}

theorem req_settle (s : State) (c : Chan) (k : List RequestTag × List Epoch) : ReqKept k s k (s.settle c) := by
  unfold State.settle
  refine ReqKept.trans (t := if (s.chan c).drained then (s.modChan c fun x => { x with state := .held }).endLong c .ok
    else s) ?_ (req_modChan k (sameChannel_judgeIdle _ _))
  split
  · exact (req_modChan k).trans (req_endLong _ c .ok k)
  · exact ReqKept.refl k s

theorem req_settleAll (s : State) (k : List RequestTag × List Epoch) : ReqKept k s k s.settleAll :=
  (req_settle s 0 k).trans (req_settle _ 1 k)

/-- An event of a channel that leaves its part in the requests, and ends with the settling. -/
theorem req_issueOn {s : State} {c : Chan} {f : Channel → Channel} (h : SameChannel (s.chan c) (f (s.chan c)))
    (k : List RequestTag × List Epoch) : ReqKept k s k (s.issueOn c f) :=
  (req_modChan k h).trans (req_settle _ c k)

end Sys2Proof.Proofs
end

section
/-! The requests kept (O8 to O10) by the packets at the head of the ingress queue: their taking, the flushes, the management
writes and the commands. -/

namespace Sys2Proof.Proofs

-- One proof after the other, in the memory that the check allows.
set_option Elab.async false

open Sys2Proof Sys2Proof.Machine Sys2Proof.Safety Sys2Proof.Laws

/-- The request of a packet of the ingress queue. -/
abbrev packetTag (q : QueuedPacket) : RequestTag := (q.packet.stream, q.packet.tag)

/-- A change keeps the laws of requests, with nothing in hand before or after it. -/
abbrev Whole (s t : State) : Prop := ReqKept ([], []) s ([], []) t

/-- A change that begins with a packet taken keeps the laws of requests: its request is put down. -/
abbrev Carried (q : QueuedPacket) (s t : State) : Prop := ReqKept ([packetTag q], []) s ([], []) t

/-! ### Taking and serving the head -/

theorem req_takeHead {s : State} {q : QueuedPacket} {rest : List QueuedPacket} (hq : s.intake.queue = q :: rest)
    (h : List RequestTag) (es : List Epoch) : ReqKept (h, es) s (packetTag q :: h, es) s.takeHead where
  tag := id
  slot := id
  owed _ ho x := by
    have hx := ho x
    rw [count_owedTags, hq, List.map_cons, List.count_cons] at hx
    rw [count_owedTags, List.count_cons]
    show s.intake.tags.count x = (h.count x + if ((q.packet.stream, q.packet.tag) == x) = true then 1 else 0) + (((s.intake.queue.tail.map fun q => (q.packet.stream, q.packet.tag)).count x) +
      (chanList chanTags s).count x + (slotList slotTag s.ret.slots).count x + (flushTags s).count x +
      (respTags s.ret.queue).count x)
    rw [hq, List.tail_cons]
    dsimp only at hx
    omega
  stamp _ _ _ hc hl := ⟨hc, hl⟩

/-- An answer that is neither READ_DATA nor WRITE_DONE puts the request of its packet down. -/
theorem req_answer (s : State) (q : QueuedPacket) {b : RespBody}
    (hb : Response.isPlain ⟨q.packet.stream, q.packet.tag, q.order, b, false⟩ = true) : Carried q s (s.answer q b) :=
  req_handOver_plain s hb [] []

theorem req_serveHead {s : State} {row : Instr} {f : QueuedPacket → Request → State}
    (h : ∀ q rest, HeadIs s q rest (requestOf q.packet) → headRow (requestOf q.packet) = row →
      Whole s (f q (requestOf q.packet))) : Whole s (s.serveHead row f) := by
  rcases serveHead_cases s row f with he | ⟨q, rest, hhead, hrow, he⟩
  · rw [he]; exact ReqKept.refl _ s
  · rw [he]; exact h q rest hhead hrow

theorem req_taken {s t : State} {q : QueuedPacket} {rest : List QueuedPacket} {r : Request} (h : HeadIs s q rest r)
    (ht : Carried q s.takeHead t) : Whole s t := (req_takeHead h.1 [] []).trans ht

theorem req_serveManaged {s : State} {row : Instr} {act : QueuedPacket → Request → State → State}
    (h : ∀ q r t, headRow r = row → Carried q t (act q r t)) : Whole s (s.serveManaged row act) := by
  refine req_serveHead fun q rest hhead hrow => ?_
  split
  · exact req_taken hhead (h q _ _ hrow)
  · exact req_taken hhead (req_answer _ _ rfl)

/-- The rows of commands. -/
abbrev CommandRows : List Instr := [.init, .hold, .resume, .retain, .wake, .trimLong, .commitMap, .copyLiveToShadow,
  .clearFault, .clearCounters, .functionReset, .unknownCommandCode]

/-- The rows of management writes. -/
abbrev WriteRows : List Instr := [.mgmtWrite, .orderModeWrite, .managerWrite, .noticeTargetWrite, .mapTableWrite,
  .rowsPerBankWrite, .channelSettingsWrite, .urgencyThresholdWrite, .trimSettingsWrite, .noticeEnableWrite,
  .temperatureReport]

theorem commandRows_not_write {i : Instr} (h : i ∈ CommandRows) : i ∉ WriteRows := by
  simp only [List.mem_cons, List.not_mem_nil, or_false] at h
  rcases h with rfl | rfl | rfl | rfl | rfl | rfl | rfl | rfl | rfl | rfl | rfl | rfl <;> simp

theorem command_of_row {r : Request} (h : headRow r ∈ CommandRows) : ∃ n c v, r = .mgmtCommand n c v := by
  cases r with
  | mgmtCommand n c v => exact ⟨n, c, v, rfl⟩
  | mgmtWrite a v => exact absurd (writeRow_mem a) (commandRows_not_write h)
  | _ => simp [headRow] at h

theorem write_of_row {r : Request} (h : headRow r ∈ WriteRows) : ∃ a v, r = .mgmtWrite a v := by
  cases r with
  | mgmtWrite a v => exact ⟨a, v, rfl⟩
  | mgmtCommand n c v => exact absurd h (commandRows_not_write (commandRow_mem n))
  | _ => simp [headRow] at h

theorem mgmtRead_of_row {r : Request} (h : headRow r = .mgmtRead) : ∃ a, r = .mgmtRead a := by
  cases r with
  | mgmtRead a => exact ⟨a, rfl⟩
  | mgmtWrite a v => exact absurd (writeRow_mem a) (by rw [show writeRow a = .mgmtRead from h]; simp)
  | mgmtCommand n c v => exact absurd (commandRow_mem n) (by rw [show commandRow n = .mgmtRead from h]; simp)
  | _ => simp [headRow] at h

theorem req_serveCommand {s : State} {row : Instr} {act : QueuedPacket → Nat → Option Word32 → State → State}
    (hrow : row ∈ CommandRows) (h : ∀ q ch arg t, Carried q t (act q ch arg t)) : Whole s (s.serveCommand row act) := by
  refine req_serveManaged fun q r t hr => ?_
  obtain ⟨n, c, v, rfl⟩ := command_of_row (hr ▸ hrow)
  exact h q c v t

/-- A management write keeps the laws when its carrying out does. -/
theorem req_serveWrite {s : State} {row : Instr}
    {judge : QueuedPacket → MgmtAddr → Word32 → State → MgmtCode} {carry : QueuedPacket → MgmtAddr → Word32 → State → State}
    (hrow : row ∈ WriteRows) (h : ∀ q a v t k, ReqKept k t k (carry q a v t)) :
    Whole s (s.serveWrite row judge carry) := by
  refine req_serveManaged fun q r t hr => ?_
  obtain ⟨a, v, rfl⟩ := write_of_row (hr ▸ hrow)
  refine ReqKept.trans (k := ([packetTag q], [])) ?_ (req_answer _ q rfl)
  split
  · exact h q a v t _
  · exact ReqKept.refl _ t

/-! ### Flushes -/

/-- A change of a stream's entry, with the flush records that it takes in hand and puts down. -/
theorem req_modStream {s : State} {i : StreamIx} {f : StreamEntry → StreamEntry} {h k : List RequestTag} (es : List Epoch)
    (howed : ∀ x, k.count x + ((f (s.stream i)).flushes.map fun r => (i, r.tag)).count x =
      h.count x + ((s.stream i).flushes.map fun r => (i, r.tag)).count x) : ReqKept (h, es) s (k, es) (s.modStream i f) where
  tag := id
  slot := id
  owed _ ho x := by
    have hx := ho x
    have hf := count_flushTags_modStream s i f x
    have hk := howed x
    rw [count_owedTags] at hx ⊢
    show s.intake.tags.count x = k.count x + ((s.intake.queue.map fun q => (q.packet.stream, q.packet.tag)).count x +
      (chanList chanTags s).count x + (slotList slotTag s.ret.slots).count x + (flushTags (s.modStream i f)).count x +
      (respTags s.ret.queue).count x)
    dsimp only at hx
    omega
  stamp _ _ _ hc hl := ⟨hc, hl⟩

/-- A change of a stream's entry that leaves its flush list. -/
theorem req_modStream_same {s : State} {i : StreamIx} {f : StreamEntry → StreamEntry}
    (h : (f (s.stream i)).flushes = (s.stream i).flushes) (k : List RequestTag × List Epoch) :
    ReqKept k s k (s.modStream i f) :=
  req_modStream k.2 fun x => by rw [h]

theorem req_serveFlush {s : State} {q : QueuedPacket} {rest : List QueuedPacket} {r : Request} (h : HeadIs s q rest r) :
    Whole s (s.serveFlush q) := by
  unfold State.serveFlush
  dsimp only
  split
  · exact req_taken h (req_answer _ _ rfl)
  · split
    · refine req_taken h (req_modStream [] fun x => ?_)
      rw [List.map_append, List.count_append, List.count_nil]
      show 0 + (_ + [packetTag q].count x) = _
      omega
    · exact req_taken h (req_answer _ _ rfl)

/-- The FLUSH_DONEs of a list of flush records are handed over. -/
theorem req_flushesDone (i : StreamIx) (l : List FlushRecord) (h : List RequestTag) (es : List Epoch) : ∀ s : State,
    ReqKept ((l.map fun r => (i, r.tag)) ++ h, es) s (h, es)
      (l.foldl (fun t r => t.handOver ⟨i, r.tag, r.order, .flushDone, false⟩) s) := by
  induction l with
  | nil => exact ReqKept.refl _
  | cons r l ih =>
    intro s
    exact (req_handOver_plain s (r := ⟨i, r.tag, r.order, .flushDone, false⟩) rfl
      ((l.map fun r => (i, r.tag)) ++ h) es).trans (ih _)

theorem lower_tag (o : OrderNo) (r : FlushRecord) : (FlushRecord.lower o r).tag = r.tag := by
  unfold FlushRecord.lower
  split <;> rfl

theorem req_reportWrite (s : State) (i : StreamIx) (o : OrderNo) (k : List RequestTag × List Epoch) :
    ReqKept k s k (s.reportWrite i o) := by
  have hsplit : (s.stream i).flushes.map (fun r => (i, r.tag)) =
      ((flushesDone (loweredFlushes s i o)).map fun r => (i, r.tag)) ++
        (flushesLeft (loweredFlushes s i o)).map fun r => (i, r.tag) := by
    rw [← List.map_append, flushesDone, flushesLeft, List.takeWhile_append_dropWhile, List.map_map]
    exact List.map_congr_left fun r _ => by rw [Function.comp_apply, lower_tag]
  refine ReqKept.trans (k := (((flushesDone (loweredFlushes s i o)).map fun r => (i, r.tag)) ++ k.1, k.2))
    (t := s.modStream i fun x => { x with flushes := flushesLeft (loweredFlushes s i o) })
    (req_modStream k.2 fun x => ?_) (req_flushesDone i _ k.1 k.2 _)
  rw [hsplit, List.count_append, List.count_append]
  dsimp only
  omega

/-! ### Management writes -/

theorem SameChannel.trans {x y z : Channel} (h : SameChannel x y) (k : SameChannel y z) : SameChannel x z where
  pool := k.pool.trans h.pool
  issued := k.issued.trans h.issued
  longCmd := k.longCmd.trans h.longCmd
  writeBurst := k.writeBurst.trans h.writeBurst

/-- A change of the Map Unit that leaves the epoch and its counts. -/
theorem req_modMap {s : State} {f : MapUnit → MapUnit} (h : (f s.map).epoch = s.map.epoch ∧
    (f s.map).current = s.map.current ∧ (f s.map).previous = s.map.previous) (k : List RequestTag × List Epoch) :
    ReqKept k s k (s.modMap f) := by
  obtain ⟨he, hc, hp⟩ := h
  have hout : ∀ x, outstanding (s.modMap f).map x = outstanding s.map x := fun x => by
    rw [State.modMap_map, outstanding, he, hc, hp, outstanding]
  exact req_places {} k.1 fun _ hn x => by rw [hout]; exact hn x

theorem req_carryOrderMode (q : QueuedPacket) (a : MgmtAddr) (v : Word32) (t : State) (k : List RequestTag × List Epoch) :
    ReqKept k t k (carryOrderMode q a v t) := by
  have hmode : ReqKept k t k (t.modStream (streamOf a.entry) fun e => { e with orderMode := orderModeOf v }) :=
    req_modStream_same rfl k
  unfold carryOrderMode
  dsimp only
  split
  · exact hmode.trans (req_same k)
  · exact hmode

theorem req_carryNoticeTarget (q : QueuedPacket) (a : MgmtAddr) (v : Word32) (t : State)
    (k : List RequestTag × List Epoch) : ReqKept k t k (carryNoticeTarget q a v t) := by
  unfold carryNoticeTarget
  split
  · exact ReqKept.refl k t
  · have hstream : ∀ j, (t.modIntake fun x => x.retarget (streamOf a.entry)).stream j =
        { t.stream j with noticeTarget := j == streamOf a.entry } := retarget_streams t.intake (streamOf a.entry)
    exact req_same k { flushes := fun i => by rw [hstream] }

theorem req_carryMapTable (q : QueuedPacket) (a : MgmtAddr) (v : Word32) (t : State) (k : List RequestTag × List Epoch) :
    ReqKept k t k (carryMapTable q a v t) := by
  refine req_modMap ?_ k
  split
  · split <;> exact ⟨rfl, rfl, rfl⟩
  · split
    · split <;> exact ⟨rfl, rfl, rfl⟩
    · exact ⟨rfl, rfl, rfl⟩

theorem req_storeMaintenance (t : State) (i v : Nat) (k : List RequestTag × List Epoch) :
    ReqKept k t k (t.storeMaintenance i v) := req_same k

theorem req_carryUrgencyThreshold (q : QueuedPacket) (a : MgmtAddr) (v : Word32) (t : State)
    (k : List RequestTag × List Epoch) : ReqKept k t k (carryUrgencyThreshold q a v t) := by
  have hjudged : ∀ (u : State) (c : Chan), ReqKept k u k (u.modChan c fun x => x.judgeUrgent v.toNat) :=
    fun u c => req_modChan k
  exact ((req_storeMaintenance t _ _ k).trans (hjudged _ 0)).trans (hjudged _ 1)

theorem sameChannel_shortTrimFallsDue (x : Channel) (now grace : Nat) :
    SameChannel x (x.shortTrimFallsDue now grace) := by
  unfold Channel.shortTrimFallsDue
  dsimp only
  split <;> exact {}

theorem sameChannel_recomputeTrim (x : Channel) (now : Nat) (m : MaintSettings) (drift : Nat) :
    SameChannel x (x.recomputeTrim now m drift) := by
  unfold Channel.recomputeTrim
  dsimp only
  split
  · exact {}
  · split
    · split
      · exact SameChannel.trans (y := { x with trimInterval := trimIntervalOf m drift }) {}
          (sameChannel_shortTrimFallsDue _ _ _)
      · exact {}
    · exact {}

theorem req_recomputeTrims (s : State) (k : List RequestTag × List Epoch) : ReqKept k s k s.recomputeTrims :=
  ((req_modChan k (sameChannel_recomputeTrim _ _ _ _)).trans (req_modChan k (sameChannel_recomputeTrim _ _ _ _))).trans
    (req_settleAll _ k)

theorem req_carryTrimSetting (q : QueuedPacket) (a : MgmtAddr) (v : Word32) (t : State)
    (k : List RequestTag × List Epoch) : ReqKept k t k (carryTrimSetting q a v t) :=
  (req_storeMaintenance t _ _ k).trans (req_recomputeTrims _ k)

theorem sameChannel_takeBand (x : Channel) (now : Nat) (old new : Band) : SameChannel x (x.takeBand now old new) := by
  rw [takeBand_frame]
  exact {}

theorem req_setBand (s : State) (b : Band) (k : List RequestTag × List Epoch) : ReqKept k s k (s.setBand b) := by
  unfold State.setBand
  split
  · exact ReqKept.refl k s
  · have hband : ReqKept k s k (s.modMgmt fun m => { m with temp := { m.temp with band := b } }) := req_same k
    exact (hband.trans (req_modChan k (sameChannel_takeBand _ _ _ _))).trans (req_modChan k (sameChannel_takeBand _ _ _ _))

theorem req_takeReport (s : State) (v : Int) (k : List RequestTag × List Epoch) : ReqKept k s k (s.takeReport v) := by
  have htemp : ReqKept k s k (s.modMgmt fun m =>
      { m with temp := m.temp.report v s.millis s.now m.settings.staleTimeoutMs }) := req_same k
  unfold State.takeReport State.reportBand
  dsimp only
  refine ReqKept.trans ?_ (req_recomputeTrims _ k)
  split
  · exact (htemp.trans (req_setBand _ _ k)).trans (req_raiseNotice _ _ k)
  · exact htemp.trans (req_setBand _ _ k)

/-! ### Commands -/

theorem req_channelCommand {t : State} {q : QueuedPacket} {ch : Nat} {command : LongCommand}
    {accept : Chan → State → State} (h : ∀ c, (t.chan c).longCmd = none → Carried q t (accept c t)) :
    Carried q t (t.channelCommand q ch command accept) := by
  unfold State.channelCommand
  split
  · exact req_answer _ _ rfl
  · split
    · next hj => exact h _ (judgeCommand_ok hj).1
    · exact req_answer _ _ rfl

/-- A long command is accepted: its record, what it does to its channel, and the settling. -/
theorem req_longAccepted {t : State} {q : QueuedPacket} {c : Chan} {f : Channel → Channel} (command : LongCommand)
    (hnone : (t.chan c).longCmd = none) (hf : ∀ x, SameChannel x (f x)) :
    Carried q t (((t.beginLong c q command).modChan c f).settle c) :=
  ((req_beginLong q command hnone [] []).trans (req_modChan _ (hf _))).trans (req_settle _ c _)

theorem sameChannel_beginDrain (x : Channel) (now : Nat) (st : ChanState) : SameChannel x (x.beginDrain now st) := by
  unfold Channel.beginDrain
  split <;> exact {}

theorem sameChannel_requestLongTrim (x : Channel) (now : Nat) : SameChannel x (x.requestLongTrim now) := by
  unfold Channel.requestLongTrim
  dsimp only
  split <;> exact {}

theorem req_acceptResume (q : QueuedPacket) {c : Chan} {t : State} (h : (t.chan c).longCmd = none) :
    Carried q t (acceptResume q c t) := by
  unfold acceptResume
  split
  · exact (req_beginLong q .resume h [] []).trans (req_settle _ c _)
  · exact ((req_modChan ([packetTag q], [])).trans (req_answer _ q rfl)).trans (req_settle _ c _)

theorem req_acceptWake (q : QueuedPacket) {c : Chan} {t : State} (h : (t.chan c).longCmd = none) :
    Carried q t (acceptWake q c t) := by
  unfold acceptWake
  split
  · exact req_longAccepted .wake h fun _ => {}
  · exact req_answer _ _ rfl

theorem judgeCommit_ok_previous {s : State} (h : s.judgeCommit = .ok) : s.map.previous = 0 := by
  by_contra hp
  rw [judgeCommit_busy hp] at h
  cases h

theorem epoch_add_one_ne : ∀ e : Epoch, e + 1 ≠ e := by decide

/-- With nothing outstanding before the current epoch, what was outstanding is then outstanding before the new one. -/
theorem outstanding_commit {m : MapUnit} (h : m.previous = 0) (x : Epoch) : outstanding m.commit x = outstanding m x := by
  have hback : m.epoch + 1 - 1 = m.epoch := add_sub_cancel_right _ _
  unfold outstanding MapUnit.commit
  dsimp only
  rw [hback, h, ite_self]
  by_cases hx : x = m.epoch + 1
  · rw [if_pos hx, if_neg (by rw [hx]; exact epoch_add_one_ne _)]
  · rw [if_neg hx]

theorem req_commitMap {s : State} (h : s.map.previous = 0) (k : List RequestTag × List Epoch) :
    ReqKept k s k s.commitMap := by
  have hmap : ReqKept k s k (s.modMap MapUnit.commit) :=
    req_places {} k.1 fun _ hn x => by rw [State.modMap_map, outstanding_commit h]; exact hn x
  unfold State.commitMap
  dsimp only
  split
  · exact hmap.trans (req_raiseDrained _ k)
  · exact hmap

theorem req_clearCounters (t : State) (n : Nat) (k : List RequestTag × List Epoch) : ReqKept k t k (t.clearCounters n) := by
  have hclear : ∀ (u : State) (c : Chan), ReqKept k u k (u.modChan c Channel.clearCounters) := fun u c => req_modChan k
  unfold State.clearCounters
  dsimp only
  split <;> split
  · exact (hclear _ 0).trans (hclear _ 1)
  · exact hclear _ 1
  · exact hclear _ 0
  · exact ReqKept.refl k t

end Sys2Proof.Proofs
end

section
/-! The requests kept (O8 to O10) by what moves requests between the pools, the completion slots and the queue of responses:
the requests accepted, the column commands, the arrival of data, the end of a burst and the send of a response. -/

namespace Sys2Proof.Proofs

-- One proof after the other, in the memory that the check allows.
set_option Elab.async false

open Sys2Proof Sys2Proof.Machine Sys2Proof.Safety Sys2Proof.Laws

/-! ### What an entry of a pool stands for -/

/-- The completion slot of a READ entry. -/
def entrySlot (e : PoolEntry) : Option SlotIx :=
  match e.kind with
  | .read i => some i
  | .write _ _ => none

/-- The request of a WRITE entry. -/
def entryTag (e : PoolEntry) : Option RequestTag := if e.isWrite then some (e.stream, e.tag) else none

/-- The stamp of a WRITE entry. -/
def entryStamp (e : PoolEntry) : Option Epoch := if e.isWrite then some e.epoch else none

theorem poolSlots_eq (x : Channel) : poolSlots x = x.pool.filterMap entrySlot := rfl

theorem poolWrites_map {α : Type} (g : PoolEntry → α) (x : Channel) :
    (poolWrites x).map g = x.pool.filterMap fun e => if e.isWrite then some (g e) else none := by
  unfold poolWrites
  induction x.pool with
  | nil => rfl
  | cons e l ih => by_cases h : e.isWrite = true <;> simp [h, ih]

theorem chanTags_eq (x : Channel) : chanTags x = x.pool.filterMap entryTag ++ longTags x :=
  congrArg (· ++ longTags x) (poolWrites_map _ x)

theorem chanStamps_eq (x : Channel) : chanStamps x = x.pool.filterMap entryStamp ++ (discardedStamp x).toList :=
  congrArg (· ++ (discardedStamp x).toList) (poolWrites_map _ x)

theorem entrySlot_read {e : PoolEntry} {i : SlotIx} (h : e.kind = .read i) : entrySlot e = some i := by
  unfold entrySlot
  rw [h]

theorem isWrite_read {e : PoolEntry} {i : SlotIx} (h : e.kind = .read i) : e.isWrite = false := by
  unfold PoolEntry.isWrite
  rw [h]

theorem entrySlot_write {e : PoolEntry} {d : Line} {en : BitVec 8} (h : e.kind = .write d en) : entrySlot e = none := by
  unfold entrySlot
  rw [h]

theorem isWrite_write {e : PoolEntry} {d : Line} {en : BitVec 8} (h : e.kind = .write d en) : e.isWrite = true := by
  unfold PoolEntry.isWrite
  rw [h]

theorem entryTag_read {e : PoolEntry} {i : SlotIx} (h : e.kind = .read i) : entryTag e = none := by
  rw [entryTag, isWrite_read h]
  rfl

theorem entryStamp_read {e : PoolEntry} {i : SlotIx} (h : e.kind = .read i) : entryStamp e = none := by
  rw [entryStamp, isWrite_read h]
  rfl

theorem entryTag_write {e : PoolEntry} {d : Line} {en : BitVec 8} (h : e.kind = .write d en) :
    entryTag e = some (e.stream, e.tag) := by
  rw [entryTag, isWrite_write h]
  rfl

theorem entryStamp_write {e : PoolEntry} {d : Line} {en : BitVec 8} (h : e.kind = .write d en) :
    entryStamp e = some e.epoch := by
  rw [entryStamp, isWrite_write h]
  rfl

/-! ### Reads by their slots -/

theorem poolCount_pos {s : State} {c : Chan} {e : PoolEntry} {i : SlotIx} (he : e ∈ (s.chan c).pool)
    (hk : e.kind = .read i) : 0 < poolCount s i :=
  List.count_pos_iff.2 (mem_chanList.2 ⟨c, List.mem_filterMap.2 ⟨e, he, entrySlot_read hk⟩⟩)

theorem issuedCount_pos {s : State} {c : Chan} {d : IssuedRead} (hd : d ∈ (s.chan c).issued) : 0 < issuedCount s d.slot :=
  List.count_pos_iff.2 (mem_chanList.2 ⟨c, List.mem_map_of_mem hd⟩)

theorem queueCount_pos {l : List Response} {r : Response} {e : Epoch} {i : SlotIx} (hr : r ∈ l)
    (hb : r.body = .readData e i) : 0 < queueCount l i :=
  List.count_pos_iff.2 (List.mem_filterMap.2 ⟨r, hr, slot_of_readData hb⟩)

/-- The slot of an issued read is named by nothing else, and waits. -/
theorem slot_of_issued {s : State} {c : Chan} {d : IssuedRead} (hs : SlotLaw s) (hd : d ∈ (s.chan c).issued) :
    poolCount s d.slot = 0 ∧ issuedCount s d.slot = 1 ∧ queueCount s.ret.queue d.slot = 0 ∧
      Slot.waits s.ret.slots[d.slot] = true := by
  obtain ⟨hone, -, hwaits, -⟩ := (slotLaw_iff s).1 hs d.slot
  have hpos := issuedCount_pos hd
  exact ⟨by omega, by omega, by omega, hwaits.2 (by omega)⟩

/-- A FREE slot is named by nothing. -/
theorem slot_of_free {s : State} {i : SlotIx} (hs : SlotLaw s) (hi : s.ret.slots[i] = .free) :
    poolCount s i = 0 ∧ issuedCount s i = 0 ∧ queueCount s.ret.queue i = 0 := by
  obtain ⟨-, -, hwaits, hfilled⟩ := (slotLaw_iff s).1 hs i
  rw [hi] at hwaits hfilled
  have hw : ¬0 < poolCount s i + issuedCount s i := fun h => Bool.false_ne_true (hwaits.2 h)
  have hf : ¬0 < queueCount s.ret.queue i := fun h => Bool.false_ne_true (hfilled.2 h)
  exact ⟨by omega, by omega, by omega⟩

/-- The slot of a READ_DATA is named by nothing else, and is FILLED. -/
theorem slot_of_readData_mem {s : State} {r : Response} {e : Epoch} {i : SlotIx} (hs : SlotLaw s) (hr : r ∈ s.ret.queue)
    (hb : r.body = .readData e i) : poolCount s i = 0 ∧ issuedCount s i = 0 ∧ queueCount s.ret.queue i = 1 ∧
      Slot.isFilled s.ret.slots[i] = true := by
  obtain ⟨hone, -, -, hfilled⟩ := (slotLaw_iff s).1 hs i
  have hpos := queueCount_pos hr hb
  exact ⟨by omega, by omega, by omega, hfilled.2 hpos⟩

/-- One slot is set, and its read moves: the law is to be seen at that slot alone. -/
theorem slotLaw_of_moved {s t : State} {i : SlotIx} {x : Slot} (hslots : t.ret.slots = s.ret.slots.set i x)
    (hp : ∀ j, i ≠ j → poolCount t j = poolCount s j) (hi : ∀ j, i ≠ j → issuedCount t j = issuedCount s j)
    (hq : ∀ j, i ≠ j → queueCount t.ret.queue j = queueCount s.ret.queue j) (hok : SlotOk t i) (hs : SlotLaw s) :
    SlotLaw t := by
  refine (slotLaw_iff t).2 fun j => ?_
  by_cases hij : i = j
  · exact hij ▸ hok
  · have hj := (slotLaw_iff s).1 hs j
    unfold SlotOk at hj ⊢
    rwa [hp j hij, hi j hij, hq j hij, hslots, slot_set, if_neg hij]

theorem count_of_ne {i j : SlotIx} (h : i ≠ j) : [i].count j = 0 := by
  rw [List.count_singleton, if_neg (fun hb => h (beq_iff_eq.1 hb))]

theorem count_self (i : SlotIx) : [i].count i = 1 := by
  rw [List.count_singleton, if_pos (beq_self_eq_true i)]

theorem count_owedTags_setSlot (s : State) (i : SlotIx) (x : Slot) (y : RequestTag) :
    (owedTags (s.setSlot i x)).count y + (slotTag s.ret.slots[i]).toList.count y =
      (owedTags s).count y + (slotTag x).toList.count y := by
  have h := count_slotList_set slotTag s.ret.slots i x y
  rw [count_owedTags, count_owedTags]
  show (s.intake.queue.map fun q => (q.packet.stream, q.packet.tag)).count y + (chanList chanTags s).count y +
    (slotList slotTag (s.ret.slots.set i x)).count y + (flushTags s).count y + (respTags s.ret.queue).count y + _ = _
  omega

theorem count_unsentStamps_setSlot (s : State) (i : SlotIx) (x : Slot) (y : Epoch) :
    (unsentStamps (s.setSlot i x)).count y + (Slot.epoch s.ret.slots[i]).toList.count y =
      (unsentStamps s).count y + (Slot.epoch x).toList.count y := by
  have h := count_slotList_set Slot.epoch s.ret.slots i x y
  rw [count_unsentStamps, count_unsentStamps]
  show (chanList chanStamps s).count y + (slotList Slot.epoch (s.ret.slots.set i x)).count y + _ = _
  omega

/-- A slot that no READ in a pool and no READ_DATA names may change. -/
theorem linked_setSlot {s : State} {i : SlotIx} (x : Slot) (hp : poolCount s i = 0) (hq : queueCount s.ret.queue i = 0)
    (hl : Linked s) : Linked (s.setSlot i x) := by
  obtain ⟨hreads, hdata, hdone⟩ := hl
  refine ⟨fun c e he j hj => ?_, fun r hr e j hb => ?_, hdone⟩
  · have hne : j ≠ i := fun hij => by
      have := poolCount_pos he (hij ▸ hj)
      exact absurd hp (Nat.pos_iff_ne_zero.1 this)
    rw [setSlot_slot, if_neg hne]
    exact hreads c e he j hj
  · have hne : j ≠ i := fun hij => by
      have := queueCount_pos (l := s.ret.queue) hr (hij ▸ hb)
      omega
    rw [setSlot_slot, if_neg hne]
    exact hdata r hr e j hb

/-! ### Requests accepted (R30) -/

theorem outstanding_counted (m : MapUnit) (x : Epoch) :
    outstanding { m with current := m.current + 1 } x = outstanding m x + [m.epoch].count x := by
  unfold outstanding
  rw [List.count_singleton]
  dsimp only
  by_cases hx : x = m.epoch
  · rw [if_pos hx, if_pos hx, if_pos (by rw [hx]; exact beq_self_eq_true _)]
  · rw [if_neg hx, if_neg hx, if_neg (fun h => hx (beq_iff_eq.1 h).symm)]
    rfl

/-- A request is counted in the current epoch. -/
abbrev counted (s : State) : State := s.modMap fun m => { m with current := m.current + 1 }

/-- A request is counted: its stamp is in hand. -/
theorem req_counted (s : State) (h : List RequestTag) (es : List Epoch) :
    ReqKept (h, es) s (h, s.map.epoch :: es) (counted s) :=
  req_places {} h fun n hn x => by
    have hx := hn x
    rw [State.modMap_map, outstanding_counted, count_cons_single, ← hx]
    omega

theorem filterMap_join {α : Type} (g : PoolEntry → Option α) (x : Channel) (e : PoolEntry) :
    (x.join e).pool.filterMap g = x.pool.filterMap g ++ (g e).toList := by
  show (x.pool ++ [e]).filterMap g = _
  rw [List.filterMap_append, filterMap_single]

theorem mem_join {x : Channel} {e o : PoolEntry} (h : o ∈ (x.join e).pool) : o ∈ x.pool ∨ o = e := by
  have h' : o ∈ x.pool ++ [e] := h
  rwa [List.mem_append, List.mem_singleton] at h'

theorem count_chanTags_join (x : Channel) (e : PoolEntry) (y : RequestTag) :
    (chanTags (x.join e)).count y = (chanTags x).count y + (entryTag e).toList.count y := by
  rw [chanTags_eq, chanTags_eq, filterMap_join, List.count_append, List.count_append, List.count_append]
  show _ + _ + (longTags x).count y = _
  omega

theorem count_chanStamps_join (x : Channel) (e : PoolEntry) (y : Epoch) :
    (chanStamps (x.join e)).count y = (chanStamps x).count y + (entryStamp e).toList.count y := by
  rw [chanStamps_eq, chanStamps_eq, filterMap_join, List.count_append, List.count_append, List.count_append]
  show _ + _ + (discardedStamp x).toList.count y = _
  omega

/-- A WRITE joins the pool: its request and its stamp are put down. -/
theorem req_joinWrite {s : State} {c : Chan} {e : PoolEntry} {d : Line} {en : BitVec 8} (hk : e.kind = .write d en)
    (h : List RequestTag) (es : List Epoch) :
    ReqKept ((e.stream, e.tag) :: h, e.epoch :: es) s (h, es) (s.modChan c fun x => x.join e) := by
  have hslots : poolSlots ((s.chan c).join e) = poolSlots (s.chan c) := by
    rw [poolSlots_eq, filterMap_join, entrySlot_write hk]
    exact List.append_nil _
  refine req_channel (slotLaw_modChan (fun i => ?_) fun i => ?_) (fun x => ?_) (fun x => ?_)
    fun _ _ hl => linked_modChan (fun o ho i hi => Or.inl ?_) (fun w hw => Or.inl hw) hl
  · rw [hslots]; rfl
  · rw [hslots]
  · rw [count_chanTags_join, entryTag_write hk, count_cons_single _ h, Option.toList_some]
    omega
  · rw [count_chanStamps_join, entryStamp_write hk, count_cons_single _ es, Option.toList_some]
    omega
  · rcases mem_join ho with ho | rfl
    · exact ⟨o, ho, hi, rfl⟩
    · rw [hk] at hi
      cases hi

/-- The arrival of an entry at its channel, and the settling. -/
theorem req_arrivalAt (s : State) (c : Chan) (k : List RequestTag × List Epoch) :
    ReqKept k s k ((s.arrivalAt c).settle c) := by
  refine ReqKept.trans ?_ (req_settle _ c k)
  unfold State.arrivalAt
  split
  · exact req_modChan k
  · exact (req_modChan k).trans (req_endLong _ c .cancelled k)
  · exact req_modChan k
  · exact ReqKept.refl k s

/-- A READ is counted and joins the pool, with its slot RESERVED. -/
abbrev readJoined (s : State) (c : Chan) (e : PoolEntry) (i : SlotIx) (r : ReadRecord) : State :=
  ((counted s).modChan c fun x => x.join e).setSlot i (.reserved r)

section ReadJoined

variable {s : State} {c : Chan} {e : PoolEntry} {i : SlotIx} {r : ReadRecord}

theorem poolCount_readJoined (hk : e.kind = .read i) (j : SlotIx) :
    poolCount (readJoined s c e i r) j = poolCount s j + [i].count j := by
  have hp := poolCount_modChan (s := counted s) (c := c) (f := fun x => x.join e) j
  rw [poolSlots_eq (Channel.join _ _), filterMap_join, entrySlot_read hk, List.count_append, Option.toList_some] at hp
  have hp' : poolCount (readJoined s c e i r) j + (poolSlots (s.chan c)).count j =
    poolCount s j + ((poolSlots (s.chan c)).count j + [i].count j) := hp
  omega

theorem issuedCount_readJoined (j : SlotIx) : issuedCount (readJoined s c e i r) j = issuedCount s j :=
  Nat.add_right_cancel (issuedCount_modChan (s := counted s) (c := c) (f := fun x => x.join e) j)

theorem slotLaw_readJoined (hk : e.kind = .read i) (hfree : s.ret.slots[i] = .free) (hs : SlotLaw s) :
    SlotLaw (readJoined s c e i r) := by
  obtain ⟨hp, hi, hq⟩ := slot_of_free hs hfree
  refine slotLaw_of_moved (s := s) (i := i) (x := .reserved r) rfl (fun j hj => ?_) (fun j _ => issuedCount_readJoined j) (fun _ _ => rfl) ?_ hs
  · rw [poolCount_readJoined hk, count_of_ne hj]
    rfl
  · have hslot : (readJoined s c e i r).ret.slots[i] = .reserved r := (setSlot_slot _ i i _).trans (if_pos rfl)
    have hqueue : queueCount (readJoined s c e i r).ret.queue i = 0 := hq
    unfold SlotOk
    rw [hslot, poolCount_readJoined hk, issuedCount_readJoined, hqueue, hp, hi, count_self]
    exact ⟨le_rfl, fun _ => rfl, iff_of_true rfl Nat.one_pos, iff_of_false Bool.false_ne_true (Nat.lt_irrefl 0)⟩

theorem owedWith_readJoined {h : List RequestTag} (hk : e.kind = .read i) (hfree : s.ret.slots[i] = .free)
    (ho : OwedWith ((r.stream, r.tag) :: h) s) : OwedWith h (readJoined s c e i r) := by
  intro x
  have hx := ho x
  have hslot : (owedTags (readJoined s c e i r)).count x + _ = _ :=
    count_owedTags_setSlot ((counted s).modChan c fun x => x.join e) i (.reserved r) x
  have hfree' : ((counted s).modChan c fun x => x.join e).ret.slots[i] = .free := hfree
  have hchan := count_owedTags_modChan (s := counted s) (c := c) (f := fun x => x.join e) x
  rw [count_chanTags_join, entryTag_read hk] at hchan
  rw [hfree'] at hslot
  rw [count_cons_single] at hx
  have htags : (readJoined s c e i r).intake.tags.count x = s.intake.tags.count x := rfl
  have howed : (owedTags (counted s)).count x = (owedTags s).count x := rfl
  have hnew : (slotTag (.reserved r)).toList.count x = [(r.stream, r.tag)].count x := rfl
  have hold : (slotTag .free).toList.count x = 0 := rfl
  have hnone : (none : Option RequestTag).toList.count x = 0 := rfl
  rw [htags]
  omega

theorem counted_readJoined {es : List Epoch} (hk : e.kind = .read i) (hfree : s.ret.slots[i] = .free)
    (hr : r.epoch = s.map.epoch) (hc : Counted es s) : Counted es (readJoined s c e i r) := by
  refine counted_iff.2 fun x => ?_
  have hx := counted_iff.1 hc x
  have hslot : (unsentStamps (readJoined s c e i r)).count x + _ = _ :=
    count_unsentStamps_setSlot ((counted s).modChan c fun x => x.join e) i (.reserved r) x
  have hfree' : ((counted s).modChan c fun x => x.join e).ret.slots[i] = .free := hfree
  have hchan := count_unsentStamps_modChan (s := counted s) (c := c) (f := fun x => x.join e) x
  rw [count_chanStamps_join, entryStamp_read hk] at hchan
  rw [hfree'] at hslot
  have hout : outstanding (readJoined s c e i r).map x = outstanding s.map x + [s.map.epoch].count x :=
    outstanding_counted s.map x
  have hunsent : (unsentStamps (counted s)).count x = (unsentStamps s).count x := rfl
  have hnew : (Slot.epoch (.reserved r)).toList.count x = [s.map.epoch].count x := by rw [← hr]; rfl
  have hold : (Slot.epoch .free).toList.count x = 0 := rfl
  have hnone : (none : Option Epoch).toList.count x = 0 := rfl
  have hqueue : (respStamps (readJoined s c e i r).ret.queue).count x = (respStamps s.ret.queue).count x := rfl
  rw [hout, hqueue]
  omega

theorem linked_readJoined (hk : e.kind = .read i) (hfree : s.ret.slots[i] = .free) (hr : r.epoch = e.epoch)
    (hs : SlotLaw s) (hl : Linked s) : Linked (readJoined s c e i r) := by
  obtain ⟨hp, -, hq⟩ := slot_of_free hs hfree
  have hset : Linked ((counted s).setSlot i (.reserved r)) := linked_setSlot (s := counted s) _ hp hq hl
  refine linked_modChan (s := (counted s).setSlot i (.reserved r)) (c := c) (f := fun x => x.join e)
    (fun o ho j hj => ?_) (fun w hw => Or.inl hw) hset
  rcases mem_join ho with ho | rfl
  · exact Or.inl ⟨o, ho, hj, rfl⟩
  · rw [hk] at hj
    cases hj
    refine Or.inr ?_
    rw [setSlot_slot, if_pos rfl, ← hr]
    rfl

/-- A READ joins the pool with a slot that was FREE: its request is put down, and its stamp is counted. -/
theorem req_readJoined (hk : e.kind = .read i) (hfree : s.ret.slots[i] = .free) (hr : r.epoch = s.map.epoch)
    (he : e.epoch = s.map.epoch) (h : List RequestTag) (es : List Epoch) :
    ReqKept ((r.stream, r.tag) :: h, es) s (h, es) (readJoined s c e i r) where
  tag := id
  slot := slotLaw_readJoined hk hfree
  owed _ := owedWith_readJoined hk hfree
  stamp _ hs _ hc hl := ⟨counted_readJoined hk hfree hr hc, linked_readJoined hk hfree (hr.trans he.symm) hs hl⟩

end ReadJoined

theorem freeSlot_some {u : ReturnUnit} {i : SlotIx} (h : u.freeSlot = some i) : u.slots[i] = .free :=
  beq_iff_eq.1 (List.find?_some (p := fun i : SlotIx => u.slots[i] == Slot.free) h)

theorem req_serveRead {s : State} {q : QueuedPacket} {rest : List QueuedPacket} {r : Request} (h : HeadIs s q rest r)
    (a : HostAddr) : Whole s (s.serveRead q a) := by
  unfold State.serveRead
  split
  · exact req_taken h (req_answer _ _ rfl)
  · next loc _ =>
    split
    · next i hi =>
      split
      · refine req_taken h (ReqKept.trans (t := readJoined s.takeHead loc.chan (poolEntry q s.map.epoch loc (.read i)) i
          (readRecord q s.map.epoch loc)) (k := ([], [])) ?_ (req_arrivalAt _ loc.chan _))
        exact req_readJoined (s := s.takeHead) (e := poolEntry q s.map.epoch loc (.read i))
          (r := readRecord q s.map.epoch loc) rfl (freeSlot_some hi) rfl rfl [] []
      · exact ReqKept.refl _ s
    · exact ReqKept.refl _ s

theorem req_serveWriteRequest {s : State} {q : QueuedPacket} {rest : List QueuedPacket} {r : Request}
    (h : HeadIs s q rest r) (a : HostAddr) (en : BitVec 8) (d : Line) : Whole s (s.serveWriteRequest q a en d) := by
  unfold State.serveWriteRequest
  split
  · exact req_taken h (req_answer _ _ rfl)
  · next loc _ =>
    split
    · refine req_taken h ((ReqKept.trans (req_counted s.takeHead _ []) ?_).trans (req_arrivalAt _ loc.chan _))
      exact req_joinWrite (e := poolEntry q s.map.epoch loc (.write d en)) rfl [] []
    · exact ReqKept.refl _ s

end Sys2Proof.Proofs
end

section
/-! The requests kept (O8 to O10) by the column commands, the arrival of data, the end of a write burst and the send of a
response. -/

namespace Sys2Proof.Proofs

-- One proof after the other, in the memory that the check allows.
set_option Elab.async false

open Sys2Proof Sys2Proof.Machine Sys2Proof.Safety Sys2Proof.Laws

/-! ### Column commands (R47) -/

/-- What entries are counted for, a passing over leaves: the issued entry alone leaves the pool. -/
theorem count_poolAfter {α : Type} [BEq α] {g : PoolEntry → Option α} (hg : ∀ o, g o.passOver = g o)
    {pool : List PoolEntry} {i : Nat} {e : PoolEntry} (he : pool[i]? = some e) (x : α) :
    ((poolAfter pool i e).filterMap g).count x + (g e).toList.count x = (pool.filterMap g).count x := by
  obtain ⟨hlt, hget⟩ := List.getElem?_eq_some_iff.1 he
  have hpassed : ((pool.take i).map fun o => if o.bank = e.bank then o.passOver else o).filterMap g =
      (pool.take i).filterMap g := by
    rw [List.filterMap_map]
    refine List.filterMap_congr fun o _ => ?_
    rw [Function.comp_apply]
    split
    · exact hg o
    · rfl
  have hsplit : pool = pool.take i ++ e :: pool.drop (i + 1) := by
    rw [← hget, List.getElem_cons_drop, List.take_append_drop]
  have hcount : (pool.filterMap g).count x = ((pool.take i).filterMap g).count x +
      (((g e).toList).count x + ((pool.drop (i + 1)).filterMap g).count x) := by
    conv_lhs => rw [hsplit]
    rw [List.filterMap_append, List.count_append, ← List.singleton_append, List.filterMap_append, List.count_append,
      filterMap_single]
  rw [hcount, poolAfter, List.filterMap_append, List.count_append, hpassed]
  omega

theorem mem_poolAfter {pool : List PoolEntry} {i : Nat} {e k : PoolEntry} (h : k ∈ poolAfter pool i e) :
    ∃ o ∈ pool, o.kind = k.kind ∧ o.epoch = k.epoch := by
  rcases List.mem_append.1 h with h | h
  · obtain ⟨o, ho, rfl⟩ := List.mem_map.1 h
    refine ⟨o, List.mem_of_mem_take ho, ?_⟩
    split <;> exact ⟨rfl, rfl⟩
  · exact ⟨k, List.mem_of_mem_drop h, rfl, rfl⟩

section Column

variable {x y : Channel} {i : Nat} {e : PoolEntry}

theorem count_poolSlots_column (hy : y.pool = poolAfter x.pool i e) (he : x.pool[i]? = some e) (j : SlotIx) :
    (poolSlots y).count j + (entrySlot e).toList.count j = (poolSlots x).count j := by
  rw [poolSlots_eq, hy]
  exact count_poolAfter (fun _ => rfl) he j

theorem count_chanTags_column (hy : y.pool = poolAfter x.pool i e) (he : x.pool[i]? = some e)
    (hl : y.longCmd = x.longCmd) (t : RequestTag) :
    (chanTags y).count t + (entryTag e).toList.count t = (chanTags x).count t := by
  have hlong : longTags y = longTags x := by unfold longTags; rw [hl]
  have hcount := count_poolAfter (g := entryTag) (fun _ => rfl) he t
  rw [chanTags_eq, chanTags_eq, hy, hlong, List.count_append, List.count_append]
  omega

theorem count_chanStamps_column (hy : y.pool = poolAfter x.pool i e) (he : x.pool[i]? = some e)
    (hd : discardedStamp y = discardedStamp x) (t : Epoch) :
    (chanStamps y).count t + (entryStamp e).toList.count t = (chanStamps x).count t := by
  have hcount := count_poolAfter (g := entryStamp) (fun _ => rfl) he t
  rw [chanStamps_eq, chanStamps_eq, hy, hd, List.count_append, List.count_append]
  omega

end Column

theorem issueColumn_pool (x : Channel) (now i : Nat) (e : PoolEntry) :
    (x.issueColumn now i e).pool = poolAfter x.pool i e := by rw [issueColumn_frame]

theorem req_readColumn {s : State} {c : Chan} {i : Nat} {e : PoolEntry} {slot : SlotIx} {cs : List CellChange}
    (he : (s.chan c).pool[i]? = some e) (hk : e.kind = .read slot) (k : List RequestTag × List Epoch) :
    ReqKept k s k (s.issueOn c fun x => (x.issueColumn s.now i e).issueRead c s.now e slot cs) := by
  refine ReqKept.trans ?_ (req_settle _ c k)
  have hframe := issueColumn_frame (s.chan c) s.now i e
  have hread := issueRead_eq ((s.chan c).issueColumn s.now i e) c s.now e slot cs
  have hpool : (((s.chan c).issueColumn s.now i e).issueRead c s.now e slot cs).pool = poolAfter (s.chan c).pool i e := by
    rw [hread]; exact issueColumn_pool ..
  have hlong : (((s.chan c).issueColumn s.now i e).issueRead c s.now e slot cs).longCmd = (s.chan c).longCmd := by
    rw [hread, hframe]
  have hburst : (((s.chan c).issueColumn s.now i e).issueRead c s.now e slot cs).writeBurst = (s.chan c).writeBurst := by
    rw [hread, hframe]
  have hissued : issuedSlots (((s.chan c).issueColumn s.now i e).issueRead c s.now e slot cs) =
      issuedSlots (s.chan c) ++ [slot] := by
    unfold issuedSlots
    rw [hread, hframe, List.map_append]
    rfl
  refine req_channel (f := fun x => (x.issueColumn s.now i e).issueRead c s.now e slot cs)
    (slotLaw_modChan (fun j => ?_) fun j => ?_) (fun t => ?_) (fun t => ?_)
    fun _ _ hl => linked_modChan (fun o ho j hj => Or.inl ?_) (fun w hw => Or.inl (hburst ▸ hw)) hl
  · have hcount := count_poolSlots_column hpool he j
    rw [entrySlot_read hk, Option.toList_some] at hcount
    rw [hissued, List.count_append]
    omega
  · exact Nat.le.intro (count_poolSlots_column hpool he j)
  · have hcount := count_chanTags_column hpool he hlong t
    rw [entryTag_read hk] at hcount
    exact congrArg (k.1.count t + ·) hcount
  · have hdisc : discardedStamp (((s.chan c).issueColumn s.now i e).issueRead c s.now e slot cs) =
      discardedStamp (s.chan c) := by unfold discardedStamp; rw [hburst]
    have hcount := count_chanStamps_column hpool he hdisc t
    rw [entryStamp_read hk] at hcount
    exact congrArg (k.2.count t + ·) hcount
  · obtain ⟨o', ho', hkind, hepoch⟩ := mem_poolAfter (hpool ▸ ho)
    exact ⟨o', ho', hkind.trans hj, hepoch⟩

/-- A request that stands in a pool has no response in the queue. -/
theorem no_response_of_pooled {s : State} {c : Chan} {e : PoolEntry} {d : Line} {en : BitVec 8} (ht : TagLaw s)
    (ho : OwedWith [] s) (he : e ∈ (s.chan c).pool) (hk : e.kind = .write d en) {r : Response} (hr : r ∈ s.ret.queue) :
    ¬(r.stream = e.stream ∧ r.tag = e.tag) := by
  rintro ⟨hstream, htag⟩
  have hone := owed_le_one ht ho (e.stream, e.tag)
  rw [count_owedTags] at hone
  have hpool : 0 < (chanList chanTags s).count (e.stream, e.tag) := by
    refine List.count_pos_iff.2 (mem_chanList.2 ⟨c, ?_⟩)
    rw [chanTags_eq]
    exact List.mem_append_left _ (List.mem_filterMap.2 ⟨e, he, entryTag_write hk⟩)
  have hqueue : 0 < (respTags s.ret.queue).count (e.stream, e.tag) :=
    List.count_pos_iff.2 (List.mem_map.2 ⟨r, hr, by rw [hstream, htag]⟩)
  omega

theorem carries_iff (w : WriteBurst) (r : Response) :
    w.carries r = true ↔ w.stream = r.stream ∧ w.tag = r.tag ∧ w.order = r.order := by
  unfold WriteBurst.carries
  rw [Bool.and_eq_true, Bool.and_eq_true, beq_iff_eq, beq_iff_eq, beq_iff_eq, and_assoc]

/-- The burst of a write that is issued. -/
abbrev issuedBurst (x : Channel) (now i : Nat) (e : PoolEntry) : WriteBurst :=
  ⟨e.bank, e.stream, e.tag, e.order, e.epoch, false, now + (x.issueColumn now i e).settings.burstTime⟩

/-- A WRITE leaves the pool: its request and its stamp are in hand, and its burst is on the bus. -/
theorem req_writeIssued {s : State} {c : Chan} {i : Nat} {e : PoolEntry} {d : Line} {en : BitVec 8}
    (he : (s.chan c).pool[i]? = some e) (hk : e.kind = .write d en) (hidle : (s.chan c).writeBurst = none) :
    ReqKept ([], []) s ([(e.stream, e.tag)], [e.epoch])
      (s.modChan c fun x => (x.issueColumn s.now i e).issueWrite s.now e d en) := by
  have hframe := issueColumn_frame (s.chan c) s.now i e
  have hwrite := issueWrite_eq ((s.chan c).issueColumn s.now i e) s.now e d en
  have hpool : (((s.chan c).issueColumn s.now i e).issueWrite s.now e d en).pool = poolAfter (s.chan c).pool i e := by
    rw [hwrite]; exact issueColumn_pool ..
  have hlong : (((s.chan c).issueColumn s.now i e).issueWrite s.now e d en).longCmd = (s.chan c).longCmd := by
    rw [hwrite, hframe]
  have hissued : issuedSlots (((s.chan c).issueColumn s.now i e).issueWrite s.now e d en) = issuedSlots (s.chan c) := by
    unfold issuedSlots
    rw [hwrite, hframe]
  have hburst : (((s.chan c).issueColumn s.now i e).issueWrite s.now e d en).writeBurst =
      some (issuedBurst (s.chan c) s.now i e) := by rw [hwrite]
  refine req_channel (f := fun x => (x.issueColumn s.now i e).issueWrite s.now e d en)
    (slotLaw_modChan (fun j => ?_) fun j => ?_) (fun t => ?_) (fun t => ?_)
    fun ht ho hl => linked_modChan (fun o ho j hj => Or.inl ?_) (fun w hw => Or.inr fun r hr e' _ => ?_) hl
  · have hcount := count_poolSlots_column hpool he j
    rw [entrySlot_write hk] at hcount
    rw [hissued]
    exact congrArg (· + (issuedSlots (s.chan c)).count j) hcount
  · exact Nat.le.intro (count_poolSlots_column hpool he j)
  · have hcount := count_chanTags_column hpool he hlong t
    rw [entryTag_write hk, Option.toList_some] at hcount
    rw [List.count_nil]
    omega
  · have hdisc : discardedStamp (((s.chan c).issueColumn s.now i e).issueWrite s.now e d en) =
        discardedStamp (s.chan c) := by
      unfold discardedStamp
      rw [hburst, hidle]
      rfl
    have hcount := count_chanStamps_column hpool he hdisc t
    rw [entryStamp_write hk, Option.toList_some] at hcount
    rw [List.count_nil]
    omega
  · obtain ⟨o', ho', hkind, hepoch⟩ := mem_poolAfter (hpool ▸ ho)
    exact ⟨o', ho', hkind.trans hj, hepoch⟩
  · cases hburst.symm.trans hw
    refine ⟨rfl, fun hcarries => ?_⟩
    obtain ⟨hstream, htag, -⟩ := (carries_iff _ r).1 hcarries
    exact absurd ⟨hstream.symm, htag.symm⟩ (no_response_of_pooled ht ho (List.mem_of_getElem? he) hk hr)

theorem grant_column_writeBurst {s : State} {c : Chan} {i : Nat} (h : s.grant c = some (.column i)) :
    (s.chan c).writeBurst = none := by
  obtain ⟨-, -, e, -, helig⟩ := grant_column h
  obtain ⟨-, -, hburst, -⟩ := (columnEligible_iff s (s.chan c) i e).1 helig
  exact hburst

theorem req_writeColumn {s : State} {c : Chan} {i : Nat} {e : PoolEntry} {d : Line} {en : BitVec 8}
    (h : s.grant c = some (.column i)) (he : (s.chan c).pool[i]? = some e) (hk : e.kind = .write d en) :
    Whole s ((s.issueOn c fun x => (x.issueColumn s.now i e).issueWrite s.now e d en).reportIssue c e) := by
  have hissue : ReqKept ([], []) s ([(e.stream, e.tag)], [e.epoch])
      (s.issueOn c fun x => (x.issueColumn s.now i e).issueWrite s.now e d en) :=
    (req_writeIssued he hk (grant_column_writeBurst h)).trans (req_settle _ c _)
  have hburst : ((s.issueOn c fun x => (x.issueColumn s.now i e).issueWrite s.now e d en).chan c).writeBurst =
      some (issuedBurst (s.chan c) s.now i e) := by
    refine (settle_chan_frame _ c).2.1.trans ?_
    rw [State.chan_modChan_same, issueWrite_eq]
  refine (hissue.trans (ReqKept.trans ?_ (req_reportWrite _ e.stream e.order ([], []))))
  refine req_handOver (r := ⟨e.stream, e.tag, e.order, .writeDone e.epoch c, false⟩) rfl (fun e' c' w hb hw => ?_) [] []
  cases hb
  cases hburst.symm.trans hw
  exact ⟨rfl, fun _ => rfl⟩

/-! ### The arrival of data (R139, R149) -/

/-- The oldest issued read of a channel leaves it. -/
structure FirstArrives (x y : Channel) (d : IssuedRead) : Prop where
  issued : x.issued = d :: y.issued
  pool : y.pool = x.pool := by exact rfl
  longCmd : y.longCmd = x.longCmd := by exact rfl
  writeBurst : y.writeBurst = x.writeBurst := by exact rfl

section Arrival

variable {s : State} {c : Chan} {f : Channel → Channel} {d : IssuedRead}

theorem poolCount_arrived (h : FirstArrives (s.chan c) (f (s.chan c)) d) (j : SlotIx) :
    poolCount (s.modChan c f) j = poolCount s j := by
  have hcount := poolCount_modChan (s := s) (c := c) (f := f) j
  rw [poolSlots_eq (f (s.chan c)), h.pool, ← poolSlots_eq] at hcount
  omega

theorem issuedCount_arrived (h : FirstArrives (s.chan c) (f (s.chan c)) d) (j : SlotIx) :
    issuedCount (s.modChan c f) j + [d.slot].count j = issuedCount s j := by
  have hcount := issuedCount_modChan (s := s) (c := c) (f := f) j
  have hissued : issuedSlots (s.chan c) = d.slot :: issuedSlots (f (s.chan c)) := congrArg (List.map IssuedRead.slot) h.issued
  rw [hissued, count_cons_single] at hcount
  omega

theorem owedTags_arrived (h : FirstArrives (s.chan c) (f (s.chan c)) d) (x : RequestTag) :
    (owedTags (s.modChan c f)).count x = (owedTags s).count x := by
  have hcount := count_owedTags_modChan (s := s) (c := c) (f := f) x
  have hsame : chanTags (f (s.chan c)) = chanTags (s.chan c) := by
    unfold chanTags poolWrites longTags
    rw [h.pool, h.longCmd]
  rw [hsame] at hcount
  omega

theorem unsentStamps_arrived (h : FirstArrives (s.chan c) (f (s.chan c)) d) (x : Epoch) :
    (unsentStamps (s.modChan c f)).count x = (unsentStamps s).count x := by
  have hcount := count_unsentStamps_modChan (s := s) (c := c) (f := f) x
  have hsame : chanStamps (f (s.chan c)) = chanStamps (s.chan c) := by
    unfold chanStamps poolWrites discardedStamp
    rw [h.pool, h.writeBurst]
  rw [hsame] at hcount
  omega

theorem linked_arrived (h : FirstArrives (s.chan c) (f (s.chan c)) d) (hl : Linked s) : Linked (s.modChan c f) :=
  linked_modChan (fun e he _ hi => Or.inl ⟨e, h.pool ▸ he, hi, rfl⟩) (fun _ hw => Or.inl (h.writeBurst ▸ hw)) hl

theorem mem_issued (h : FirstArrives (s.chan c) (f (s.chan c)) d) : d ∈ (s.chan c).issued := by
  rw [h.issued]
  exact List.mem_cons_self

/-- The read's slot is set when its data arrives, and a READ_DATA for it joins the queue or not: the law holds if the slot
is FILLED exactly then. -/
theorem slotLaw_arrived {t : State} {x : Slot} {n : Nat} (h : FirstArrives (s.chan c) (f (s.chan c)) d)
    (hslots : t.ret.slots = s.ret.slots.set d.slot x) (hchan : ∀ e, t.chan e = (s.modChan c f).chan e)
    (hqueue : ∀ j, queueCount t.ret.queue j = queueCount s.ret.queue j + n * [d.slot].count j) (hn : n ≤ 1)
    (hwaits : Slot.waits x = false) (hfilled : Slot.isFilled x = true ↔ n = 1) (hs : SlotLaw s) : SlotLaw t := by
  have hlist : ∀ g : Channel → List SlotIx, chanList g t = chanList g (s.modChan c f) :=
    fun g => chanList_congr fun e => by rw [hchan]
  have hp : ∀ j, poolCount t j = poolCount s j := fun j => by
    rw [← poolCount_arrived h, poolCount, hlist, poolCount]
  have hi : ∀ j, issuedCount t j + [d.slot].count j = issuedCount s j := fun j => by
    rw [← issuedCount_arrived h, issuedCount, hlist, issuedCount]
  obtain ⟨hpool, hissued, hq, -⟩ := slot_of_issued hs (mem_issued h)
  refine slotLaw_of_moved hslots (fun j _ => hp j) (fun j hj => ?_) (fun j hj => ?_) ?_ hs
  · have := hi j
    rw [count_of_ne hj] at this
    omega
  · rw [hqueue, count_of_ne hj, Nat.mul_zero, Nat.add_zero]
  · have hslot : t.ret.slots[d.slot] = x := by rw [hslots, slot_set, if_pos rfl]
    have hissued' := hi d.slot
    have hqueue' := hqueue d.slot
    rw [count_self] at hissued' hqueue'
    have hnone : issuedCount t d.slot = 0 := by omega
    unfold SlotOk
    rw [hslot, hp, hpool, hnone, hqueue', hq, hwaits, hfilled]
    refine ⟨by omega, fun hpos => absurd hpos (Nat.lt_irrefl 0), iff_of_false Bool.false_ne_true (Nat.lt_irrefl 0), ?_⟩
    omega

/-- The data of a read that a reset has discarded is dropped: its stamp is in hand. -/
theorem req_arrivedDropped {r : ReadRecord} (h : FirstArrives (s.chan c) (f (s.chan c)) d)
    (hslot : s.ret.slots[d.slot] = .discard r) (k : List RequestTag) (es : List Epoch) :
    ReqKept (k, es) s (k, r.epoch :: es) ((s.modChan c f).setSlot d.slot .free) where
  tag := id
  slot := slotLaw_arrived (n := 0) h rfl (fun _ => rfl) (fun _ => by rw [Nat.zero_mul]; rfl) (Nat.zero_le 1) rfl
    (iff_of_false Bool.false_ne_true Nat.zero_ne_one)
  owed _ ho x := by
    have hx := ho x
    have hset := count_owedTags_setSlot (s.modChan c f) d.slot .free x
    have hold : (slotTag (s.modChan c f).ret.slots[d.slot]).toList.count x = 0 := by
      rw [State.modChan_ret, hslot]; rfl
    have hnew : (slotTag .free).toList.count x = 0 := rfl
    rw [hold, hnew, owedTags_arrived h] at hset
    show s.intake.tags.count x = _
    dsimp only at hx ⊢
    omega
  stamp _ hs _ hc hl := by
    obtain ⟨hpool, -, hq, -⟩ := slot_of_issued hs (mem_issued h)
    refine ⟨counted_iff.2 fun x => ?_, linked_setSlot _ ((poolCount_arrived h _).trans hpool) hq (linked_arrived h hl)⟩
    have hx := counted_iff.1 hc x
    have hset := count_unsentStamps_setSlot (s.modChan c f) d.slot .free x
    have hold : (Slot.epoch (s.modChan c f).ret.slots[d.slot]).toList.count x = [r.epoch].count x := by
      rw [State.modChan_ret, hslot]; rfl
    have hnew : (Slot.epoch .free).toList.count x = 0 := rfl
    rw [hold, hnew, unsentStamps_arrived h] at hset
    show (r.epoch :: es).count x + _ + (respStamps s.ret.queue).count x = outstanding s.map x
    rw [count_cons_single]
    dsimp only at hx
    omega

/-- The READ_DATA of a read record. -/
abbrev readDone (r : ReadRecord) (i : SlotIx) : Response := ⟨r.stream, r.tag, r.order, .readData r.epoch i, false⟩

/-- Checked data fills the slot of its read, and the READ_DATA is handed over. -/
theorem req_arrivedFilled {r : ReadRecord} (line : Line) (p : BitVec 8) (h : FirstArrives (s.chan c) (f (s.chan c)) d)
    (hslot : s.ret.slots[d.slot] = .reserved r) (k : List RequestTag × List Epoch) :
    ReqKept k s k (((s.modChan c f).setSlot d.slot (.filled r line p)).handOver (readDone r d.slot)) where
  tag := id
  slot := slotLaw_arrived (n := 1) h rfl (fun _ => rfl)
    (fun j => by rw [Nat.one_mul]; exact queueCount_append s.ret.queue (readDone r d.slot) j) le_rfl rfl
    (iff_of_true rfl rfl)
  owed _ ho := owedWith_handOver fun x => by
    have hx := ho x
    have hset := count_owedTags_setSlot (s.modChan c f) d.slot (.filled r line p) x
    have hold : (slotTag (s.modChan c f).ret.slots[d.slot]).toList.count x = [(r.stream, r.tag)].count x := by
      rw [State.modChan_ret, hslot]; rfl
    have hnew : (slotTag (.filled r line p)).toList.count x = 0 := rfl
    rw [hold, hnew, owedTags_arrived h] at hset
    have hdone : [((readDone r d.slot).stream, (readDone r d.slot).tag)].count x = [(r.stream, r.tag)].count x := rfl
    rw [count_cons_single, hdone]
    show s.intake.tags.count x = _
    omega
  stamp _ hs _ hc hl := by
    obtain ⟨hpool, -, hq, -⟩ := slot_of_issued hs (mem_issued h)
    have hset := linked_setSlot (.filled r line p) ((poolCount_arrived h _).trans hpool) hq (linked_arrived h hl)
    refine ⟨counted_handOver (counted_iff.2 fun x => ?_), linked_handOver (fun e i hb => ?_) (fun e c w hb => nomatch hb) hset⟩
    · have hx := counted_iff.1 hc x
      have hset := count_unsentStamps_setSlot (s.modChan c f) d.slot (.filled r line p) x
      have hold : (Slot.epoch (s.modChan c f).ret.slots[d.slot]).toList.count x = [r.epoch].count x := by
        rw [State.modChan_ret, hslot]; rfl
      have hnew : (Slot.epoch (.filled r line p)).toList.count x = [r.epoch].count x := rfl
      rw [hold, hnew, unsentStamps_arrived h] at hset
      show k.2.count x + _ + (respStamps s.ret.queue).count x = outstanding s.map x
      omega
    · cases hb
      rw [setSlot_slot, if_pos rfl]
      rfl

end Arrival

theorem firstArrives {x : Channel} {d : IssuedRead} {rest : List IssuedRead} (now : Nat) (h : x.issued = d :: rest) :
    FirstArrives x (x.arrive now) d where
  issued := by
    show x.issued = d :: x.issued.tail
    rw [h]
    rfl

/-- The oldest issued read's data arrives at its slot, which waits for it. -/
theorem req_readArrives {s : State} {c : Chan} {d : IssuedRead} {rest : List IssuedRead} (h : (s.chan c).issued = d :: rest)
    (k : List RequestTag × List Epoch) : ReqKept k s k ((s.modChan c fun x => x.arrive s.now).deliver c d) := by
  unfold State.deliver
  split
  · next r hr =>
    unfold State.fillSlot
    dsimp only
    have hfilled := req_arrivedFilled (f := fun x => (x.arrive s.now).count fun n => n.countWords d.words)
      (returnedLine d.words) (poisonedSet d.words)
      { issued := (firstArrives s.now h).issued : FirstArrives (s.chan c) ((s.chan c).arrive s.now |>.count _) d } hr k
    have htwice : (s.modChan c fun x => x.arrive s.now).modChan c (fun x => x.count fun n => n.countWords d.words) =
        s.modChan c fun x => (x.arrive s.now).count fun n => n.countWords d.words := State.modChan_setChan ..
    rw [htwice]
    split
    · exact hfilled
    · exact hfilled.trans (req_raiseNotice _ _ k)
  · next r hr =>
    exact (req_arrivedDropped (f := fun x => x.arrive s.now) (firstArrives s.now h) hr k.1 k.2).trans
      (req_retire _ r.epoch k.1 k.2)
  · next hreserved hdiscard =>
    have hwrong : ¬SlotLaw s := fun hs => by
      obtain ⟨-, -, -, hwaits⟩ := slot_of_issued (d := d) (c := c) hs (by rw [h]; exact List.mem_cons_self)
      cases hslot : s.ret.slots[d.slot] with
      | reserved r => exact hreserved r hslot
      | discard r => exact hdiscard r hslot
      | _ => rw [hslot] at hwaits; cases hwaits
    exact {
      tag := id
      slot := fun hs => absurd hs hwrong
      owed := fun hs => absurd hs hwrong
      stamp := fun _ hs => absurd hs hwrong }

/-! ### The end of a write burst (R38) -/

theorem req_burstEnds {s : State} {c : Chan} {w : WriteBurst} (h : (s.chan c).writeBurst = some w) (hs : List RequestTag)
    (es : List Epoch) : ReqKept (hs, es) s (hs, (if w.discard then [w.epoch] else []) ++ es)
      (s.modChan c fun x => x.endWriteBurst s.now w) := by
  refine req_channel (slotLaw_modChan (fun _ => rfl) fun _ => le_rfl) (fun _ => rfl) (fun x => ?_)
    fun _ _ hl => linked_modChan (fun e he _ hi => Or.inl ⟨e, he, hi, rfl⟩) (fun _ hw => nomatch hw) hl
  have hold : (discardedStamp (s.chan c)).toList = if w.discard then [w.epoch] else [] := by
    unfold discardedStamp
    rw [h]
    dsimp only
    split <;> rfl
  rw [chanStamps_eq, chanStamps_eq, hold, List.count_append, List.count_append, List.count_append]
  show _ + ((_ : Nat) + 0) = _
  have hpool : ((s.chan c).endWriteBurst s.now w).pool = (s.chan c).pool := rfl
  rw [hpool]
  omega

theorem req_writeBurstEnd {s : State} {c : Chan} {w : WriteBurst} (h : (s.chan c).writeBurst = some w) :
    Whole s (if w.discard then ((s.modChan c fun x => x.endWriteBurst s.now w).settle c).retire w.epoch
      else (s.modChan c fun x => x.endWriteBurst s.now w).settle c) := by
  have hend := (req_burstEnds h [] []).trans (req_settle _ c _)
  split
  · next hd =>
    rw [if_pos hd] at hend
    exact hend.trans (req_retire _ w.epoch [] [])
  · next hd =>
    rw [if_neg hd] at hend
    exact hend

/-! ### The send of a response (R146) -/

theorem count_filterMap_erase {α : Type} [BEq α] (g : Response → Option α) {l : List Response} {r : Response} (h : r ∈ l)
    (x : α) : ((l.erase r).filterMap g).count x + (g r).toList.count x = (l.filterMap g).count x := by
  rw [((List.perm_cons_erase h).filterMap g).count_eq, ← List.singleton_append, List.filterMap_append, List.count_append,
    filterMap_single]
  omega

theorem count_respTags_erase {l : List Response} {r : Response} (h : r ∈ l) (x : RequestTag) :
    (respTags (l.erase r)).count x + [(r.stream, r.tag)].count x = (respTags l).count x := by
  unfold respTags
  rw [((List.perm_cons_erase h).map fun r => (r.stream, r.tag)).count_eq, List.map_cons, count_cons_single _ (List.map _ _)]

section Release

variable {s : State} {r : Response}

theorem owedWith_release {h : List RequestTag} (hr : r ∈ s.ret.queue) (ho : OwedWith h s) :
    OwedWith h (s.releaseResponse r) := by
  intro x
  have hx := ho x
  have hself := ho (r.stream, r.tag)
  rw [count_owedTags] at hx hself ⊢
  have herase := count_respTags_erase hr x
  have hself' := count_respTags_erase hr (r.stream, r.tag)
  show (s.intake.tags.erase (r.stream, r.tag)).count x = h.count x +
    ((s.intake.queue.map fun q => (q.packet.stream, q.packet.tag)).count x +
    (chanList chanTags s).count x + (slotList slotTag s.ret.slots).count x + (flushTags s).count x +
    (respTags (s.ret.queue.erase r)).count x)
  rw [List.count_erase]
  rw [List.count_singleton] at herase
  omega

theorem counted_release {es : List Epoch} (hr : r ∈ s.ret.queue) (hc : Counted es s) :
    Counted ((Response.writeStamp r).toList ++ es) (s.releaseResponse r) := by
  refine counted_iff.2 fun x => ?_
  have hx := counted_iff.1 hc x
  have herase : (respStamps (s.ret.queue.erase r)).count x + _ = (respStamps s.ret.queue).count x :=
    count_filterMap_erase Response.writeStamp hr x
  rw [List.count_append]
  show _ + (unsentStamps s).count x + (respStamps (s.ret.queue.erase r)).count x = outstanding s.map x
  omega

theorem linked_release (hl : Linked s) : Linked (s.releaseResponse r) :=
  ⟨hl.1, fun q hq => hl.2.1 q (List.mem_of_mem_erase hq), fun q hq => hl.2.2 q (List.mem_of_mem_erase hq)⟩

theorem queueCount_release (hr : r ∈ s.ret.queue) (i : SlotIx) :
    queueCount (s.releaseResponse r).ret.queue i + (Response.slot r).toList.count i = queueCount s.ret.queue i :=
  count_filterMap_erase Response.slot hr i

theorem tagLaw_release (h : TagLaw s) : TagLaw (s.releaseResponse r) := h.sublist List.erase_sublist

/-- A response without a slot leaves the queue with its tag: a WRITE_DONE's stamp is in hand. -/
theorem req_release (hr : r ∈ s.ret.queue) (hslot : Response.slot r = none) (h : List RequestTag) (es : List Epoch) :
    ReqKept (h, es) s (h, (Response.writeStamp r).toList ++ es) (s.releaseResponse r) where
  tag := tagLaw_release
  slot hs := (slotLaw_iff _).2 fun i => by
    have hi := (slotLaw_iff s).1 hs i
    have hq := queueCount_release hr i
    rw [hslot] at hq
    have hq' : queueCount (s.releaseResponse r).ret.queue i = queueCount s.ret.queue i := hq
    unfold SlotOk at hi ⊢
    rw [hq']
    exact hi
  owed _ := owedWith_release hr
  stamp _ _ _ hc hl := ⟨counted_release hr hc, linked_release hl⟩

/-- A READ_DATA leaves the queue with its tag and its slot: its stamp is in hand. -/
theorem req_releaseRead {e : Epoch} {i : SlotIx} (hr : r ∈ s.ret.queue) (hb : r.body = .readData e i)
    (h : List RequestTag) (es : List Epoch) :
    ReqKept (h, es) s (h, e :: es) ((s.releaseResponse r).setSlot i .free) where
  tag := tagLaw_release
  slot hs := by
    obtain ⟨hp, hi, hq, -⟩ := slot_of_readData_mem hs hr hb
    have hcount : ∀ j, queueCount (s.releaseResponse r).ret.queue j + [i].count j = queueCount s.ret.queue j := fun j => by
      have hq := queueCount_release hr j
      rwa [slot_of_readData hb] at hq
    refine slotLaw_of_moved (s := s) (i := i) (x := .free) rfl (fun _ _ => rfl) (fun _ _ => rfl) (fun j hj => ?_) ?_ hs
    · have hj' := hcount j
      rw [count_of_ne hj] at hj'
      exact hj'
    · have hi' := hcount i
      rw [count_self] at hi'
      have hnone : queueCount ((s.releaseResponse r).setSlot i .free).ret.queue i = 0 := by
        show queueCount (s.releaseResponse r).ret.queue i = 0
        omega
      have hslot : ((s.releaseResponse r).setSlot i .free).ret.slots[i] = .free := (setSlot_slot _ i i _).trans (if_pos rfl)
      have hp' : poolCount ((s.releaseResponse r).setSlot i .free) i = 0 := hp
      have hi'' : issuedCount ((s.releaseResponse r).setSlot i .free) i = 0 := hi
      unfold SlotOk
      rw [hslot, hp', hi'', hnone]
      exact ⟨Nat.zero_le 1, fun h0 => absurd h0 (Nat.lt_irrefl 0), iff_of_false Bool.false_ne_true (Nat.lt_irrefl 0),
        iff_of_false Bool.false_ne_true (Nat.lt_irrefl 0)⟩
  owed hs ho x := by
    obtain ⟨-, -, -, hfilled⟩ := slot_of_readData_mem hs hr hb
    have hx := owedWith_release hr ho x
    have hset := count_owedTags_setSlot (s.releaseResponse r) i .free x
    have hold : slotTag (s.releaseResponse r).ret.slots[i] = none := by
      show slotTag s.ret.slots[i] = none
      cases hslot : s.ret.slots[i] with
      | reserved _ => rw [hslot] at hfilled; cases hfilled
      | _ => rfl
    rw [hold] at hset
    have hnew : (slotTag .free).toList.count x = (none : Option RequestTag).toList.count x := rfl
    rw [hnew] at hset
    show (s.releaseResponse r).intake.tags.count x = _
    dsimp only at hx ⊢
    omega
  stamp _ hs _ hc hl := by
    obtain ⟨hp, -, hq, -⟩ := slot_of_readData_mem hs hr hb
    have hepoch : Slot.epoch s.ret.slots[i] = some e := hl.2.1 r hr e i hb
    refine ⟨counted_iff.2 fun x => ?_, linked_setSlot _ hp ?_ (linked_release hl)⟩
    · have hx := counted_iff.1 (counted_release hr hc) x
      have hstamp : Response.writeStamp r = none := by unfold Response.writeStamp; rw [hb]
      rw [hstamp, Option.toList_none, List.nil_append] at hx
      have hset := count_unsentStamps_setSlot (s.releaseResponse r) i .free x
      have hold : Slot.epoch (s.releaseResponse r).ret.slots[i] = some e := hepoch
      have hnew : (Slot.epoch .free).toList.count x = 0 := rfl
      rw [hold, hnew, Option.toList_some] at hset
      show (e :: es).count x + _ + (respStamps (s.releaseResponse r).ret.queue).count x =
        outstanding (s.releaseResponse r).map x
      rw [count_cons_single]
      dsimp only at hx
      omega
    · have hq' := queueCount_release hr i
      rw [slot_of_readData hb, Option.toList_some, count_self] at hq'
      omega

end Release

theorem req_sendResponse {s : State} {r : Response} (h : s.chosenResponse = some r) : Whole s (s.sendResponse r) := by
  have hr : r ∈ s.ret.queue := List.mem_of_find?_eq_some (chosenResponse_some h).2
  have hlink : Whole s (s.modLink fun l => l.sendNew s.now (s.packetOf r)) := req_same _
  refine hlink.trans ?_
  cases hb : r.body with
  | readData e i =>
    rw [State.sendResponse, releaseRequest_of_read hb]
    exact (req_releaseRead (s := s.modLink fun l => l.sendNew s.now (s.packetOf r)) hr hb [] []).trans
      (req_retire _ e [] [])
  | writeDone e c =>
    have hslot : Response.slot r = none := by unfold Response.slot; rw [hb]
    have hstamp : Response.writeStamp r = some e := by unfold Response.writeStamp; rw [hb]
    have hrelease := req_release (s := s.modLink fun l => l.sendNew s.now (s.packetOf r)) hr hslot [] []
    rw [hstamp] at hrelease
    rw [State.sendResponse, releaseRequest_of_write hb]
    exact hrelease.trans (req_retire _ e [] [])
  | _ =>
    have hplain : Response.isPlain r = true := by unfold Response.isPlain; rw [hb]
    have hrelease := req_release (s := s.modLink fun l => l.sendNew s.now (s.packetOf r)) hr (plain_slot hplain) [] []
    rw [plain_writeStamp hplain] at hrelease
    rw [State.sendResponse, releaseRequest_of_other (by simp [hb]) (by simp [hb])]
    exact hrelease

end Sys2Proof.Proofs
end

section
/-! The requests kept (O8 to O10) by a link reset and a function reset: the discards of the pools and of the Return Unit, with
the stamps that retire. -/

namespace Sys2Proof.Proofs

-- One proof after the other, in the memory that the check allows.
set_option Elab.async false

open Sys2Proof Sys2Proof.Machine Sys2Proof.Safety Sys2Proof.Laws

/-! ### The stamps, the WRITE_DONEs apart, at each discard -/

theorem unsentCounted_retire {s : State} {e : Epoch} {es : List Epoch} (h : UnsentCounted (e :: es) s) :
    UnsentCounted es (s.retire e) := fun x => by
  rw [(samePlaces_retire s e).reads.unsentStamps]
  exact outstanding_retire h x

/-- A slot that is freed gives its stamp into the hand. -/
theorem unsentCounted_free {s : State} {i : SlotIx} {e : Epoch} {es : List Epoch}
    (hi : Slot.epoch s.ret.slots[i] = some e) (h : UnsentCounted es s) : UnsentCounted (e :: es) (s.setSlot i .free) := by
  intro x
  have hx := h x
  have hset := count_unsentStamps_setSlot s i .free x
  have hnew : (Slot.epoch .free).toList.count x = 0 := rfl
  rw [hi, hnew, Option.toList_some] at hset
  rw [count_cons_single]
  show _ = outstanding s.map x
  omega

theorem unsentCounted_setSlot {s : State} {i : SlotIx} {y : Slot} {es : List Epoch}
    (hi : Slot.epoch y = Slot.epoch s.ret.slots[i]) (h : UnsentCounted es s) : UnsentCounted es (s.setSlot i y) := by
  intro x
  have hx := h x
  have hset := count_unsentStamps_setSlot s i y x
  rw [hi] at hset
  show _ = outstanding s.map x
  omega

/-- A change of a channel, with the stamps that it takes in hand and puts down. -/
theorem unsentCounted_modChan {s : State} {c : Chan} {f : Channel → Channel} {es fs : List Epoch}
    (hf : ∀ x, fs.count x + (chanStamps (f (s.chan c))).count x = es.count x + (chanStamps (s.chan c)).count x)
    (h : UnsentCounted es s) : UnsentCounted fs (s.modChan c f) := by
  intro x
  have hx := h x
  have hfx := hf x
  have hcount := count_unsentStamps_modChan (s := s) (c := c) (f := f) x
  show _ = outstanding s.map x
  omega

/-! ### The pools (R60) -/

/-- The slots of the reads of a list of entries agree with the entries' stamps. -/
def ReadsAgree (l : List PoolEntry) (s : State) : Prop :=
  ∀ e ∈ l, ∀ i, e.kind = .read i → Slot.epoch s.ret.slots[i] = some e.epoch

theorem unsentCounted_discardEntries {es : List Epoch} (l : List PoolEntry) : ∀ {s : State},
    (∀ i, (s.stream i).flushes = []) → (l.filterMap entrySlot).Nodup → ReadsAgree l s →
    UnsentCounted (l.filterMap entryStamp ++ es) s → UnsentCounted es (l.foldl State.discardEntry s) := by
  induction l with
  | nil => exact fun _ _ _ h => h
  | cons e l ih =>
    intro s hflush hnodup hagree h
    have hflush' : ∀ i, ((s.discardEntry e).stream i).flushes = [] := fun i => by
      obtain ⟨-, -, -, hintake, -⟩ := discardEntries (l := [e]) hflush
      exact (congrArg (fun u : Intake => u.streams[i].flushes) hintake).trans (hflush i)
    cases hk : e.kind with
    | read i =>
      have hdiscard : s.discardEntry e = (s.setSlot i .free).retire e.epoch := by
        unfold State.discardEntry
        rw [hk]
      rw [List.filterMap_cons_some (entrySlot_read hk), List.nodup_cons] at hnodup
      rw [List.filterMap_cons_none (entryStamp_read hk)] at h
      refine ih hflush' hnodup.2 (fun o ho j hj => ?_) ?_
      · have hne : j ≠ i := fun hij => hnodup.1 (List.mem_filterMap.2 ⟨o, ho, entrySlot_read (hij ▸ hj)⟩)
        rw [hdiscard, retire_slots, setSlot_slot, if_neg hne]
        exact hagree o (List.mem_cons_of_mem _ ho) j hj
      · rw [hdiscard]
        exact unsentCounted_retire (unsentCounted_free (hagree e List.mem_cons_self i hk) h)
    | write d en =>
      have hdiscard : s.discardEntry e = s.retire e.epoch := by
        unfold State.discardEntry
        rw [hk]
        dsimp only
        rw [reportWrite_of_no_flushes _ (hflush e.stream)]
      rw [List.filterMap_cons_none (entrySlot_write hk)] at hnodup
      rw [List.filterMap_cons_some (entryStamp_write hk)] at h
      refine ih hflush' hnodup (fun o ho j hj => ?_) ?_
      · rw [hdiscard, retire_slots]
        exact hagree o (List.mem_cons_of_mem _ ho) j hj
      · rw [hdiscard]
        exact unsentCounted_retire h

theorem sameBus_startRowHolds (now : Nat) (l : List BankIx) : ∀ x : Channel,
    SameBus x (l.foldl (fun y b => y.startRowHold now b) x) := by
  induction l with
  | nil => exact fun _ => {}
  | cons b l ih =>
    intro x
    have h := ih (x.startRowHold now b)
    have hframe := startRowHold_frame x now b
    exact ⟨h.pool.trans (by rw [hframe]), h.issued.trans (by rw [hframe]), h.writeBurst.trans (by rw [hframe])⟩

theorem chanStamps_congr {x y : Channel} (h : SameBus x y) : chanStamps y = chanStamps x := by
  unfold chanStamps poolWrites discardedStamp
  rw [h.pool, h.writeBurst]

theorem chanStamps_emptied (x : Channel) : chanStamps { x with pool := [] } = (discardedStamp x).toList := rfl

theorem unsentCounted_discardPool {s : State} {c : Chan} {es : List Epoch} (hflush : ∀ i, (s.stream i).flushes = [])
    (hnodup : (poolSlots (s.chan c)).Nodup) (hagree : ReadsAgree (s.chan c).pool s) (h : UnsentCounted es s) :
    UnsentCounted es (s.discardPool c) := by
  have hemptied : UnsentCounted ((s.chan c).pool.filterMap entryStamp ++ es)
      (s.modChan c fun x => { x with pool := [] }) := by
    refine unsentCounted_modChan (fun x => ?_) h
    rw [chanStamps_emptied, chanStamps_eq, List.count_append, List.count_append]
    omega
  have hdiscarded := unsentCounted_discardEntries (s.chan c).pool (s := s.modChan c fun x => { x with pool := [] }) hflush
    hnodup hagree hemptied
  unfold State.discardPool
  dsimp only
  generalize (s.chan c).pool.foldl State.discardEntry (s.modChan c fun x => { x with pool := [] }) = t at hdiscarded ⊢
  have hsame := chanStamps_congr (sameBus_startRowHolds t.now bankIxs (t.chan c))
  generalize bankIxs = l at hsame ⊢
  exact unsentCounted_modChan (fun x => by rw [hsame]) hdiscarded

/-! ### The Return Unit (R149) -/

/-- The WRITE_DONEs of a list whose bursts are on the bus agree with the bursts, which no reset has marked. -/
def BurstsAgree (l : List Response) (s : State) : Prop :=
  ∀ r ∈ l, ∀ e c w, r.body = .writeDone e c → (s.chan c).writeBurst = some w → w.carries r = true →
    w.discard = false ∧ e = w.epoch

theorem emptyResponse_of_other {s : State} {r : Response} (h : ∀ e c, r.body ≠ .writeDone e c) :
    s.emptyResponse r = s := by
  unfold State.emptyResponse
  split
  · next e c hb => exact absurd hb (h e c)
  · rfl

theorem emptyResponse_of_write {s : State} {r : Response} {e : Epoch} {c : Chan} (h : r.body = .writeDone e c) :
    s.emptyResponse r = if (s.chan c).carries r then s.modChan c Channel.discardBurst else s.retire e := by
  unfold State.emptyResponse
  rw [h]

theorem carries_some {x : Channel} {r : Response} (h : x.carries r = true) :
    ∃ w, x.writeBurst = some w ∧ w.carries r = true := by
  unfold Channel.carries at h
  split at h
  · next w hw => exact ⟨w, hw, h⟩
  · cases h

/-- The bursts that are left unmarked agree with the responses that are left, which are other requests'. -/
theorem burstsAgree_emptyResponse {s : State} {r : Response} {l : List Response} (hnodup : (respTags (r :: l)).Nodup)
    (h : BurstsAgree (r :: l) s) : BurstsAgree l (s.emptyResponse r) := by
  intro q hq e c w hb hw hcarries
  have hkeep := fun w' => h q (List.mem_cons_of_mem _ hq) e c w' hb
  cases hbody : r.body with
  | writeDone e' d =>
    rw [emptyResponse_of_write hbody] at hw
    split at hw
    · next hd =>
      by_cases hdc : d = c
      · subst hdc
        obtain ⟨w', hw', hcarries'⟩ := carries_some hd
        rw [State.chan_modChan_same] at hw
        unfold Channel.discardBurst at hw
        rw [hw'] at hw
        cases hw
        obtain ⟨hstream, htag, -⟩ := (carries_iff _ _).1 hcarries
        obtain ⟨hstream', htag', -⟩ := (carries_iff _ _).1 hcarries'
        refine absurd (List.mem_map.2 ⟨q, hq, ?_⟩) (List.nodup_cons.1 hnodup).1
        exact Prod.ext (hstream.symm.trans hstream') (htag.symm.trans htag')
      · rw [State.chan_modChan_ne _ _ hdc] at hw
        exact hkeep w hw hcarries
    · rw [retire_chan] at hw
      exact hkeep w hw hcarries
  | _ =>
    rw [emptyResponse_of_other (by simp [hbody])] at hw
    exact hkeep w hw hcarries

theorem respStamps_of_write {r : Response} {e : Epoch} {c : Chan} (h : r.body = .writeDone e c) (l : List Response) :
    respStamps (r :: l) = e :: respStamps l :=
  List.filterMap_cons_some (by unfold Response.writeStamp; rw [h])

theorem respStamps_of_other {r : Response} (h : ∀ e c, r.body ≠ .writeDone e c) (l : List Response) :
    respStamps (r :: l) = respStamps l := by
  refine List.filterMap_cons_none ?_
  unfold Response.writeStamp
  split
  · next e c hb => exact absurd hb (h e c)
  · rfl

/-- A WRITE_DONE is emptied: its stamp passes to its burst, or retires. -/
theorem unsentCounted_emptyResponse {s : State} {r : Response} {l : List Response} {es : List Epoch}
    (hagree : BurstsAgree (r :: l) s) (h : UnsentCounted (respStamps (r :: l) ++ es) s) :
    UnsentCounted (respStamps l ++ es) (s.emptyResponse r) := by
  cases hbody : r.body with
  | writeDone e c =>
    rw [respStamps_of_write hbody, List.cons_append] at h
    rw [emptyResponse_of_write hbody]
    split
    · next hc =>
      obtain ⟨w, hw, hcarries⟩ := carries_some hc
      obtain ⟨hdiscard, rfl⟩ := hagree r List.mem_cons_self e c w hbody hw hcarries
      refine unsentCounted_modChan (fun x => ?_) h
      have hmarked : discardedStamp (s.chan c).discardBurst = some w.epoch := by
        unfold discardedStamp Channel.discardBurst
        rw [hw]
        rfl
      have hbefore : discardedStamp (s.chan c) = none := by
        unfold discardedStamp
        rw [hw]
        dsimp only
        rw [hdiscard]
        rfl
      have hpool : (s.chan c).discardBurst.pool = (s.chan c).pool := rfl
      rw [chanStamps_eq, chanStamps_eq, hmarked, hbefore, hpool, count_cons_single, List.count_append, List.count_append,
        List.count_append, Option.toList_some, Option.toList_none, List.count_nil]
      omega
    · exact unsentCounted_retire h
  | _ =>
    rw [respStamps_of_other (by simp [hbody])] at h
    rw [emptyResponse_of_other (by simp [hbody])]
    exact h

theorem unsentCounted_emptyResponses {es : List Epoch} (l : List Response) : ∀ {s : State}, (respTags l).Nodup →
    BurstsAgree l s → UnsentCounted (respStamps l ++ es) s → UnsentCounted es (l.foldl State.emptyResponse s) := by
  induction l with
  | nil => exact fun _ _ h => h
  | cons r l ih =>
    intro s hnodup hagree h
    exact ih (List.nodup_cons.1 hnodup).2 (burstsAgree_emptyResponse hnodup hagree)
      (unsentCounted_emptyResponse hagree h)

theorem unsentCounted_emptySlot {s : State} {es : List Epoch} (i : SlotIx) (h : UnsentCounted es s) :
    UnsentCounted es (s.emptySlot i) := by
  unfold State.emptySlot
  split
  · next r d p hs => exact unsentCounted_retire (unsentCounted_free (by rw [hs]; rfl) h)
  · next r hs => exact unsentCounted_setSlot (by rw [hs]; rfl) h
  · exact h

theorem unsentCounted_emptySlots {es : List Epoch} (l : List SlotIx) : ∀ {s : State}, UnsentCounted es s →
    UnsentCounted es (l.foldl State.emptySlot s) := by
  induction l with
  | nil => exact fun h => h
  | cons i l ih => exact fun h => ih (unsentCounted_emptySlot i h)

theorem counted_emptyReturn {s : State} (hnodup : (respTags s.ret.queue).Nodup) (hagree : BurstsAgree s.ret.queue s)
    (h : Counted [] s) : Counted [] s.emptyReturn := by
  have hempty : UnsentCounted ([] : List Epoch) (slotIxs.foldl State.emptySlot (s.ret.queue.foldl State.emptyResponse s)) :=
    unsentCounted_emptySlots _ (unsentCounted_emptyResponses _ hnodup hagree h)
  unfold State.emptyReturn
  dsimp only
  generalize slotIxs.foldl State.emptySlot (s.ret.queue.foldl State.emptyResponse s) = t at hempty ⊢
  exact hempty

/-! ### The three together -/

section Discards

variable {s : State}

theorem pool_nodup (hs : SlotLaw s) (c : Chan) : (poolSlots (s.chan c)).Nodup := by
  refine List.nodup_iff_count_le_one.2 fun i => ?_
  have hone := ((slotLaw_iff s).1 hs i).1
  have hcount : poolCount s i = _ := count_chanList poolSlots s i
  match c with
  | 0 => omega
  | 1 => omega

/-- No slot is named in both pools. -/
theorem pools_apart (hs : SlotLaw s) {e o : PoolEntry} {i : SlotIx} (he : e ∈ (s.chan 0).pool) (ho : o ∈ (s.chan 1).pool)
    (hk : e.kind = .read i) : o.kind ≠ .read i := by
  intro hk'
  have hone := ((slotLaw_iff s).1 hs i).1
  have hcount : poolCount s i = _ := count_chanList poolSlots s i
  have h0 : 0 < (poolSlots (s.chan 0)).count i := List.count_pos_iff.2 (List.mem_filterMap.2 ⟨e, he, entrySlot_read hk⟩)
  have h1 : 0 < (poolSlots (s.chan 1)).count i := List.count_pos_iff.2 (List.mem_filterMap.2 ⟨o, ho, entrySlot_read hk'⟩)
  omega

theorem counted_discards (hflush : ∀ i, (s.stream i).flushes = []) (hs : SlotLaw s)
    (hnodup : (respTags s.ret.queue).Nodup) (hl : Linked s) (h : Counted [] s) :
    Counted [] ((s.discardPool 0).discardPool 1).emptyReturn := by
  obtain ⟨-, -, -, hintake, -, hqueue, -, hkept, -, hchan0, hchan⟩ := discardPool_frame 0 hflush
  have hchan1 : (s.discardPool 0).chan 1 = s.chan 1 := hchan 1 (by decide)
  have hflush' : ∀ i, ((s.discardPool 0).stream i).flushes = [] := fun i => by
    rw [State.stream, hintake]; exact hflush i
  obtain ⟨-, -, -, -, -, hqueue', -, -, -, hchan1', hchan'⟩ := discardPool_frame 1 hflush'
  have hfirst := unsentCounted_discardPool (c := 0) hflush (pool_nodup hs 0) (hl.1 0) h
  have hsecond := unsentCounted_discardPool (c := 1) hflush' (by rw [hchan1]; exact pool_nodup hs 1)
    (fun o ho j hj => by
      rw [hchan1] at ho
      rw [hkept j fun e he hk => pools_apart hs he ho hk hj]
      exact hl.1 1 o ho j hj) hfirst
  have hboth : ((s.discardPool 0).discardPool 1).ret.queue = s.ret.queue := hqueue'.trans hqueue
  have hburst : ∀ c, (((s.discardPool 0).discardPool 1).chan c).writeBurst = (s.chan c).writeBurst := fun c => by
    match c with
    | 0 => rw [hchan' 0 (by decide), hchan0]
    | 1 => rw [hchan1', hchan1]
  refine counted_emptyReturn (by rw [hboth]; exact hnodup) (fun r hr e c w hb hw hcarries => ?_) ?_
  · obtain ⟨hdiscard, hepoch⟩ := hl.2.2 r (hboth ▸ hr) e c w hb (hburst c ▸ hw)
    exact ⟨hdiscard, hepoch hcarries⟩
  · unfold Counted
    rw [hboth]
    exact hsecond

theorem no_pool_reads {t : State} (h : ∀ c, (t.chan c).pool = []) (i : SlotIx) : poolCount t i = 0 := by
  refine List.count_eq_zero.2 fun hi => ?_
  obtain ⟨c, hc⟩ := mem_chanList.1 hi
  rw [poolSlots_eq, h] at hc
  cases hc

theorem slotLaw_discards (hflush : ∀ i, (s.stream i).flushes = []) (hs : SlotLaw s) :
    SlotLaw ((s.discardPool 0).discardPool 1).emptyReturn := by
  obtain ⟨-, -, -, -, -, hqueue, -, -, hslots, hchan⟩ := discards_frame hflush
  generalize ((s.discardPool 0).discardPool 1).emptyReturn = u at *
  refine (slotLaw_iff u).2 fun j => ?_
  obtain ⟨hone, -, hwaits, -⟩ := (slotLaw_iff s).1 hs j
  have hpool : poolCount u j = 0 := no_pool_reads (fun c => by rw [(hchan c).2]) j
  have hissued : issuedCount u j = issuedCount s j := by
    have hlist : chanList issuedSlots u = chanList issuedSlots s := chanList_congr fun c => by
      unfold issuedSlots
      rw [(hchan c).2]
    rw [issuedCount, hlist, issuedCount]
  have hnone : queueCount u.ret.queue j = 0 := by rw [hqueue]; rfl
  unfold SlotOk
  rw [hpool, hissued, hnone]
  refine ⟨by omega, fun h => absurd h (Nat.lt_irrefl 0), ?_⟩
  by_cases hnamed : ∃ c : Chan, ∃ e ∈ (s.chan c).pool, e.kind = .read j
  · obtain ⟨c, e, he, hk⟩ := hnamed
    have hpos := poolCount_pos he hk
    rw [(hslots j).1 ⟨c, e, he, hk⟩]
    exact ⟨iff_of_false Bool.false_ne_true (by omega), iff_of_false Bool.false_ne_true (Nat.lt_irrefl 0)⟩
  · have hno : ∀ c : Chan, ∀ e ∈ (s.chan c).pool, e.kind ≠ .read j := fun c e he hk => hnamed ⟨c, e, he, hk⟩
    have hpool' : poolCount s j = 0 := by
      refine List.count_eq_zero.2 fun hj => ?_
      obtain ⟨c, hc⟩ := mem_chanList.1 hj
      obtain ⟨e, he, hk⟩ := List.mem_filterMap.1 hc
      refine hno c e he ?_
      cases hkind : e.kind with
      | read i => rw [hkind] at hk; cases hk; rfl
      | write d en => rw [hkind] at hk; cases hk
    rw [hpool'] at hwaits
    rw [(hslots j).2 hno, Nat.zero_add]
    rw [Nat.zero_add] at hwaits
    rw [← hwaits]
    cases s.ret.slots[j] with
    | _ => exact ⟨Iff.rfl, iff_of_false Bool.false_ne_true (Nat.lt_irrefl 0)⟩

/-- After the discards no response is owed, but to what the tag table keeps. -/
theorem owedTags_discards (hflush : ∀ i, (s.stream i).flushes = []) (hqueue : s.intake.queue = [])
    (hlong : ∀ c, longTags (s.chan c) = []) : owedTags ((s.discardPool 0).discardPool 1).emptyReturn = [] := by
  obtain ⟨-, -, -, hintake, -, hresponses, -, -, hslots, hchan⟩ := discards_frame hflush
  generalize ((s.discardPool 0).discardPool 1).emptyReturn = u at *
  have hpool : ∀ c, (poolWrites (u.chan c)).map (fun e => (e.stream, e.tag)) ++ longTags (u.chan c) = [] := fun c => by
    have hl : longTags (u.chan c) = longTags (s.chan c) := by unfold longTags; rw [(hchan c).2]
    have hw : poolWrites (u.chan c) = [] := by unfold poolWrites; rw [(hchan c).2]; rfl
    rw [hl, hlong, hw]
    rfl
  have hreserved : ∀ j : SlotIx, Slot.reservedFor u.ret.slots[j] = none := fun j => by
    by_cases hnamed : ∃ c : Chan, ∃ e ∈ (s.chan c).pool, e.kind = .read j
    · rw [(hslots j).1 hnamed]; rfl
    · rw [(hslots j).2 fun c e he hk => hnamed ⟨c, e, he, hk⟩]
      cases s.ret.slots[j] <;> rfl
  have hflush' : ∀ i, (u.stream i).flushes = [] := fun i => by rw [State.stream, hintake]; exact hflush i
  have hnone : (slotIxs.filterMap fun j => Slot.reservedFor u.ret.slots[j]) = [] :=
    List.filterMap_eq_nil_iff.2 fun j _ => hreserved j
  unfold owedTags
  simp only [hintake, hqueue, hpool, hnone, hflush', hresponses, List.map_nil, List.append_nil]
  rfl

theorem linked_of_empty {t : State} (hpool : ∀ c, (t.chan c).pool = []) (hqueue : t.ret.queue = []) : Linked t := by
  refine ⟨fun c e he => ?_, fun r hr => ?_, fun r hr => ?_⟩
  · rw [hpool] at he; cases he
  · rw [hqueue] at hr; cases hr
  · rw [hqueue] at hr; cases hr

theorem respTags_nodup {h : List RequestTag} (ht : TagLaw s) (ho : OwedWith h s) : (respTags s.ret.queue).Nodup := by
  refine List.nodup_iff_count_le_one.2 fun x => ?_
  have hone := owed_le_one ht ho x
  rw [count_owedTags] at hone
  omega

/-- The discards of a reset, after the Intake and the long commands gave up every request but those in `k`. -/
theorem req_discards {t : State} {h k : List RequestTag} (hreads : SameReads s t) (hmap : t.map = s.map)
    (hflush : ∀ i, (t.stream i).flushes = []) (hqueue : t.intake.queue = []) (hlong : ∀ c, longTags (t.chan c) = [])
    (htags : t.intake.tags = k) (hk : k.Nodup) :
    ReqKept (h, []) s (k, []) ((t.discardPool 0).discardPool 1).emptyReturn := by
  obtain ⟨-, -, -, hintake, -, hresponses, -, -, -, hchan⟩ := discards_frame hflush
  exact {
    tag := fun _ => by unfold TagLaw; rw [hintake, htags]; exact hk
    slot := fun hs => slotLaw_discards hflush (hreads.slotLaw hs)
    owed := fun _ _ x => by rw [owedTags_discards hflush hqueue hlong, hintake, htags, List.count_nil, Nat.add_zero]
    stamp := fun ht hs ho hc hl => by
      refine ⟨counted_discards hflush (hreads.slotLaw hs) ?_ (hreads.linked hl) ?_,
        linked_of_empty (fun c => by rw [(hchan c).2]) hresponses⟩
      · rw [hreads.responses]; exact respTags_nodup ht ho
      · unfold Counted UnsentCounted
        rw [hreads.unsentStamps, hreads.responses, hmap]
        exact hc }

end Discards

/-! ### The resets -/

theorem longTags_unanswerable (x : Channel) : longTags x.unanswerable = [] := by
  unfold longTags Channel.unanswerable
  cases x.longCmd <;> rfl

theorem req_linkReset (s : State) : Whole s s.linkReset := by
  refine ReqKept.trans (k := ([], [])) (req_discards (t := linkCleared s) { buses := fun c => ?_ } rfl
    (linkCleared_flushes s) rfl (fun c => ?_) rfl List.nodup_nil) (req_settleAll _ _)
  · rw [linkCleared_chan]; exact {}
  · rw [linkCleared_chan]; exact longTags_unanswerable _

theorem req_functionReset {s : State} (q : QueuedPacket) (h : ∀ c, (s.chan c).longCmd = none) :
    Carried q s (s.functionReset q) := by
  have hdiscards : ReqKept ([packetTag q], []) s ([packetTag q], [])
      ((((s.clearRecords.resetIntake q).discardPool 0).discardPool 1).emptyReturn) := by
    refine req_discards { buses := fun c => ?_ } rfl (fun i => ?_) rfl (fun c => ?_) rfl (List.nodup_singleton _)
    · rw [resetIntake_chan]; exact {}
    · rw [resetIntake_stream]
    · rw [resetIntake_chan]; exact longTags_none (h c)
  have hnext : ∀ u : State, ReqKept ([packetTag q], []) u ([packetTag q], [])
      (u.modRet fun r => { r with nextToSend := r.nextToSend.set q.packet.stream q.order }) := fun u => req_same _
  exact ((hdiscards.trans (hnext _)).trans (req_handOver_plain _ (r := ⟨q.packet.stream, q.packet.tag, q.order,
    .mgmtResp .ok none, true⟩) rfl [] [])).trans (req_settleAll _ _)

end Sys2Proof.Proofs
end

section
/-! The requests kept by every step: one pass over the commands, and the laws of slots, of responses owed and of epochs (O8
to O10). -/

namespace Sys2Proof.Proofs

-- One proof after the other, in the memory that the check allows.
set_option Elab.async false

open Sys2Proof Sys2Proof.Machine Sys2Proof.Safety Sys2Proof.Laws

/-- What a command answers keeps the laws of requests. -/
def WholeTo (s : State) (o : Host.Outcome State Fault Refusal) : Prop := ∀ t, o = .next t → Whole s t

theorem wholeTo_next {s t : State} (h : Whole s t) : WholeTo s (.next t) := by
  intro u hu
  cases hu
  exact h

/-- A command that acts under a condition, and leaves the state as it is otherwise. -/
theorem wholeTo_ite {s t : State} {p : Prop} [Decidable p] (h : p → Whole s t) :
    WholeTo s (.next (if p then t else s)) := by
  refine wholeTo_next ?_
  split
  · next hp => exact h hp
  · exact ReqKept.refl _ s

/-! ### The selector's commands -/

theorem sameChannel_startRowHold (x : Channel) (now : Nat) (b : BankIx) : SameChannel x (x.startRowHold now b) := by
  rw [startRowHold_frame]
  exact {}

theorem whole_openRow (c : Chan) (s : State) : WholeTo s (execOpenRow c s) := by
  refine wholeTo_next ?_
  split
  · exact req_issueOn {} _
  · exact ReqKept.refl _ s

theorem whole_closeBank (c : Chan) (s : State) : WholeTo s (execCloseBank c s) := by
  refine wholeTo_next ?_
  split
  · exact req_issueOn {} _
  · exact ReqKept.refl _ s

theorem whole_readColumn (c : Chan) (cs : List CellChange) (s : State) : WholeTo s (execReadColumnCommand c cs s) := by
  refine wholeTo_next ?_
  split
  · split
    · next e he =>
      split
      · next slot hk => exact req_readColumn he hk _
      · exact ReqKept.refl _ s
    · exact ReqKept.refl _ s
  · exact ReqKept.refl _ s

theorem whole_writeColumn (c : Chan) (s : State) : WholeTo s (execWriteColumnCommand c s) := by
  refine wholeTo_next ?_
  split
  · next i h =>
    split
    · next e he =>
      split
      · next d en hk => exact req_writeColumn h he hk
      · exact ReqKept.refl _ s
    · exact ReqKept.refl _ s
  · exact ReqKept.refl _ s

theorem whole_refresh (c : Chan) (s : State) : WholeTo s (execRefresh c s) := by
  refine wholeTo_next ?_
  split
  · exact req_issueOn {} _
  · exact ReqKept.refl _ s

theorem whole_shortTrim (c : Chan) (s : State) : WholeTo s (execShortTrim c s) := by
  refine wholeTo_next ?_
  split
  · exact req_issueOn {} _
  · exact ReqKept.refl _ s

theorem whole_longTrim (c : Chan) (s : State) : WholeTo s (execLongTrim c s) := by
  refine wholeTo_next ?_
  split
  · exact req_issueOn {} _
  · exact ReqKept.refl _ s

theorem whole_settingsWriteStep (c : Chan) (s : State) : WholeTo s (execSettingsWriteStep c s) := by
  refine wholeTo_next ?_
  split
  · exact req_issueOn {} _
  · exact ReqKept.refl _ s

theorem sameChannel_enterRetained (x : Channel) : SameChannel x x.enterRetained := {}

theorem whole_retentionEntry (c : Chan) (s : State) : WholeTo s (execRetentionEntryStep c s) := by
  refine wholeTo_next ?_
  split
  · exact (req_issueOn (sameChannel_enterRetained _) _).trans (req_endLong _ c .ok _)
  · exact ReqKept.refl _ s

/-! ### Expiries and completions -/

/-- The expiry of a bank's timer leaves the requests. -/
theorem whole_bankExpiry (s : State) (c : Chan) (b : BankIx) (t : Bank → Timer) (f : Bank → Bank) :
    Whole s (s.bankExpiry c b t f) := by
  unfold State.bankExpiry
  split
  · exact req_modChan _
  · exact ReqKept.refl _ s

theorem whole_chanExpiry {s : State} {c : Chan} {t : Channel → Timer} {f : Channel → Channel}
    (h : ∀ x, SameChannel x (f x)) : Whole s (s.chanExpiry c t f) := by
  unfold State.chanExpiry
  split
  · exact req_modChan _ (h _)
  · exact ReqKept.refl _ s

/-- An event of a channel that leaves its part in the requests, under a condition, and the settling. -/
theorem whole_settled {s : State} {c : Chan} {f : Channel → Channel} {p : Prop} [Decidable p]
    (h : SameChannel (s.chan c) (f (s.chan c))) : WholeTo s (.next (if p then (s.modChan c f).settle c else s)) :=
  wholeTo_ite fun _ => req_issueOn h _

theorem whole_writeBurstEnd (c : Chan) (s : State) : WholeTo s (execWriteBurstEnd c s) := by
  refine wholeTo_next ?_
  split
  · next w hw =>
    split
    · exact req_writeBurstEnd hw
    · exact ReqKept.refl _ s
  · exact ReqKept.refl _ s

theorem whole_readCompletion (c : Chan) (s : State) : WholeTo s (execReadCompletion c s) := by
  refine wholeTo_next ?_
  split
  · next d rest hd =>
    split
    · exact req_readArrives hd _
    · exact ReqKept.refl _ s
  · exact ReqKept.refl _ s

theorem whole_readBurstEnd (c : Chan) (s : State) : WholeTo s (execReadBurstEnd c s) := by
  refine wholeTo_next ?_
  split
  · split
    · exact req_issueOn {} _
    · exact ReqKept.refl _ s
  · exact ReqKept.refl _ s

theorem sameChannel_intervalExpires (x : Channel) (now : Nat) (b : Band) (threshold : Nat) :
    SameChannel x (x.intervalExpires now b threshold) := by
  rw [intervalExpires_eq]
  split <;> exact {}

theorem whole_refreshInterval (c : Chan) (s : State) : WholeTo s (execRefreshIntervalExpiry c s) := by
  have hoverdue : Whole s (if 8 ≤ (s.chan c).debt then s.overdue c else s) := by
    split
    · exact (req_modChan _).trans (req_raiseBoth _ _ _)
    · exact ReqKept.refl _ s
  exact wholeTo_ite fun _ => hoverdue.trans (req_issueOn (sameChannel_intervalExpires _ _ _ _) _)

theorem sameChannel_shortTrimCompletes (x : Channel) (now : Nat) : SameChannel x (x.shortTrimCompletes now) := by
  unfold Channel.shortTrimCompletes
  dsimp only
  split <;> exact {}

theorem req_enterActive (s : State) (c : Chan) (k : List RequestTag × List Epoch) : ReqKept k s k (s.enterActive c) :=
  (req_modChan k).trans (req_endLong _ c .ok k)

theorem req_afterLongTrim (s : State) (c : Chan) (requested : Bool) (k : List RequestTag × List Epoch) :
    ReqKept k s k (s.afterLongTrim c requested) := by
  unfold State.afterLongTrim
  split
  · exact req_enterActive s c k
  · split
    · exact req_enterActive s c k
    · exact req_modChan k
  · split
    · exact req_endLong s c .ok k
    · exact ReqKept.refl k s

theorem whole_longTrimCompletion (c : Chan) (s : State) : WholeTo s (execLongTrimCompletion c s) :=
  wholeTo_ite fun _ => ((req_modChan _).trans (req_afterLongTrim _ c _ _)).trans (req_settle _ c _)

theorem req_afterSettingsWrite (s : State) (c : Chan) (k : List RequestTag × List Epoch) :
    ReqKept k s k (s.afterSettingsWrite c) := by
  unfold State.afterSettingsWrite
  split
  · exact req_modChan k
  · exact (req_modChan k).trans (req_endLong _ c .ok k)
  · exact ReqKept.refl k s

theorem whole_settingsWriteCompletion (c : Chan) (s : State) : WholeTo s (execSettingsWriteCompletion c s) :=
  wholeTo_ite fun _ => ((req_modChan _).trans (req_afterSettingsWrite _ c _)).trans (req_settle _ c _)

theorem whole_staleTimer (s : State) : WholeTo s (execStaleTimerExpiry s) := by
  have hstale : Whole s (s.modMgmt fun m => { m with temp := { m.temp with stale := true, staleTimer := .stopped } }) :=
    req_same _
  refine wholeTo_ite fun _ => ?_
  dsimp only
  split
  · exact (hstale.trans (req_raiseNotice _ _ _)).trans (req_setBand _ _ _)
  · exact hstale.trans (req_raiseNotice _ _ _)

theorem whole_retainExitShort (c : Chan) (s : State) : WholeTo s (execRetainExitShortExpiry c s) := by
  refine wholeTo_next (whole_chanExpiry fun x => ?_)
  dsimp only
  split <;> exact {}

theorem whole_retainExitLong (c : Chan) (s : State) : WholeTo s (execRetainExitLongExpiry c s) := by
  have hexpired : Whole s (s.modChan c fun x => { x with retainExitLong := .expired }) := req_modChan _
  refine wholeTo_ite fun _ => ReqKept.trans ?_ (req_settle _ c _)
  split
  · exact hexpired.trans (req_enterActive _ c _)
  · exact hexpired

/-! ### The Link Port -/

/-- A change of the Link Port leaves the requests. -/
theorem whole_modLink (s : State) (f : Link → Link) : Whole s (s.modLink f) := req_same _

theorem whole_takeHello (s : State) : Whole s s.takeHello := by
  unfold State.takeHello
  split
  · exact whole_modLink s _
  · exact ReqKept.refl _ s
  · exact req_linkReset s

theorem whole_callReplay (s : State) (point : Option SeqNo) : Whole s (s.callReplay point) := by
  unfold State.callReplay
  split
  · exact whole_modLink s _
  · exact (req_raiseBoth _ _ _).trans (req_linkReset _)

theorem whole_takeNak (s : State) (n : SeqNo) : Whole s (s.takeNak n) := by
  unfold State.takeNak
  split
  · exact (whole_modLink s _).trans (whole_callReplay _ _)
  · split
    · exact whole_modLink s _
    · exact ReqKept.refl _ s

/-- A packet joins the ingress queue, and its tag the tag table. -/
theorem req_takePacket {s : State} {p : Packet} (hnew : (p.stream, p.tag) ∉ s.intake.tags) : Whole s (s.takePacket p) := by
  refine ReqKept.trans (t := s.modIntake fun x => { x with
      queue := x.queue ++ [⟨p, (s.stream p.stream).nextOrder⟩], tags := x.tags ++ [(p.stream, p.tag)] })
    (k := ([], [])) ?_ (req_modStream_same rfl _)
  exact {
    tag := fun h => List.nodup_append.2 ⟨h, List.nodup_singleton _, fun a ha b hb hab =>
      hnew (by rw [← List.mem_singleton.1 hb, ← hab]; exact ha)⟩
    slot := id
    owed := fun _ ho x => by
      have hx := ho x
      rw [count_owedTags] at hx ⊢
      show (s.intake.tags ++ [(p.stream, p.tag)]).count x = _ +
        (((s.intake.queue ++ [(⟨p, (s.stream p.stream).nextOrder⟩ : QueuedPacket)]).map
          fun q => (q.packet.stream, q.packet.tag)).count x +
        (chanList chanTags s).count x + (slotList slotTag s.ret.slots).count x + (flushTags s).count x +
        (respTags s.ret.queue).count x)
      rw [List.map_append, List.count_append, List.count_append]
      show _ + _ = _ + (_ + [(p.stream, p.tag)].count x + _ + _ + _ + _)
      omega
    stamp := fun _ _ _ hc hl => ⟨hc, hl⟩ }

theorem whole_arrive (s : State) (p : Packet) : Whole s (s.arrive p) := by
  unfold State.arrive
  split
  · exact req_raiseBoth _ _ _
  · split
    · exact (req_raiseBoth _ _ _).trans (whole_modLink _ _)
    · next hnew => exact req_takePacket (by simpa using hnew)

theorem whole_takeSequenced (s : State) (n : SeqNo) (p : Packet) : Whole s (s.takeSequenced n p) := by
  unfold State.takeSequenced
  split
  · exact (whole_modLink s _).trans (whole_arrive _ p)
  · split
    · exact whole_modLink s _
    · exact whole_modLink s _

theorem whole_crcFailure (s : State) : WholeTo s (execPacketCrcFailure s) := by
  unfold execPacketCrcFailure
  dsimp only
  split
  · exact wholeTo_next ((whole_modLink s _).trans (whole_modLink _ _))
  · exact wholeTo_next (whole_modLink s _)

theorem whole_nakSend (s : State) : WholeTo s (execNakSend s) := by
  refine wholeTo_next ?_
  split
  · split
    · exact whole_modLink s _
    · exact ReqKept.refl _ s
  · exact ReqKept.refl _ s

theorem whole_ackSend (s : State) : WholeTo s (execAckSend s) := by
  refine wholeTo_next ?_
  split
  · split
    · exact whole_modLink s _
    · exact ReqKept.refl _ s
  · exact ReqKept.refl _ s

theorem whole_retransmission (s : State) : WholeTo s (execRetransmission s) := by
  refine wholeTo_next ?_
  split
  · split
    · exact whole_modLink s _
    · exact ReqKept.refl _ s
  · exact ReqKept.refl _ s

theorem whole_responseSend (s : State) : WholeTo s (execResponseSend s) := by
  refine wholeTo_next ?_
  split
  · next r hr =>
    split
    · exact req_sendResponse hr
    · exact ReqKept.refl _ s
  · exact ReqKept.refl _ s

theorem whole_noticeSend (s : State) : WholeTo s (execNoticeSend s) := by
  refine wholeTo_next ?_
  split
  · split
    · exact req_same _
    · exact ReqKept.refl _ s
  · exact ReqKept.refl _ s

/-! ### The head of the ingress queue -/

theorem whole_read (s : State) : WholeTo s (execRead s) := by
  refine wholeTo_next (req_serveHead fun q rest h _ => ?_)
  split
  · exact req_serveRead h _
  · exact ReqKept.refl _ s

theorem whole_write (s : State) : WholeTo s (execWrite s) := by
  refine wholeTo_next (req_serveHead fun q rest h _ => ?_)
  split
  · exact req_serveWriteRequest h _ _ _
  · exact ReqKept.refl _ s

theorem readAnswer_plain (q : QueuedPacket) (v : Option Nat) :
    Response.isPlain ⟨q.packet.stream, q.packet.tag, q.order, readAnswer v, false⟩ = true := by
  cases v <;> rfl

theorem whole_mgmtRead (s : State) : WholeTo s (execMgmtRead s) := by
  refine wholeTo_next (req_serveManaged fun q r t hr => ?_)
  obtain ⟨a, rfl⟩ := mgmtRead_of_row hr
  exact req_answer t q (readAnswer_plain q _)

theorem whole_commitMap (s : State) : WholeTo s (execCommitMap s) := by
  refine wholeTo_next (req_serveCommand (by simp) fun q _ _ t => ?_)
  refine ReqKept.trans (k := ([packetTag q], [])) ?_ (req_answer _ q rfl)
  split
  · next h => exact req_commitMap (judgeCommit_ok_previous h) _
  · exact ReqKept.refl _ t

theorem whole_clearCounters (s : State) : WholeTo s (execClearCounters s) := by
  refine wholeTo_next (req_serveCommand (by simp) fun q _ arg t => ?_)
  split
  · exact (req_clearCounters t _ _).trans (req_answer _ q rfl)
  · exact req_answer _ q rfl

theorem whole_functionReset (s : State) : WholeTo s (execFunctionReset s) := by
  refine wholeTo_next (req_serveCommand (by simp) fun q _ _ t => ?_)
  split
  · exact req_answer _ q rfl
  · next h =>
    simp only [Bool.or_eq_true, not_or, Option.not_isSome_iff_eq_none] at h
    refine req_functionReset q fun c => ?_
    match c with
    | 0 => exact h.1
    | 1 => exact h.2

theorem sameChannel_enterDoze (x : Channel) : SameChannel x x.enterDoze := {}

/-- Every command but cold reset keeps the laws of requests. -/
theorem whole_exec {i : Instr} (s : State) (hi : i ≠ .coldReset) : WholeTo s (exec i s) := by
  cases i with
  | coldReset => exact absurd rfl hi
  | hello p => exact wholeTo_ite fun _ => whole_takeHello s
  | resetLink p => exact wholeTo_ite fun _ => req_linkReset s
  | ack p => exact wholeTo_ite fun _ => whole_modLink s _
  | nak p => exact wholeTo_ite fun _ => whole_takeNak s _
  | credit p => exact wholeTo_ite fun _ => whole_modLink s _
  | packetCrcFailure => exact whole_crcFailure s
  | sequencedPacketArrival n p => exact wholeTo_ite fun _ => whole_takeSequenced s n p
  | unknownKind => exact wholeTo_next (req_serveHead fun q rest h _ => req_taken h (req_answer _ _ rfl))
  | read => exact whole_read s
  | write => exact whole_write s
  | flush => exact wholeTo_next (req_serveHead fun q rest h _ => req_serveFlush h)
  | mgmtRead => exact whole_mgmtRead s
  | mgmtWrite => exact wholeTo_next (req_serveWrite (by simp) fun q a v t k => req_storeMaintenance t _ _ k)
  | orderModeWrite => exact wholeTo_next (req_serveWrite (by simp) req_carryOrderMode)
  | managerWrite => exact wholeTo_next (req_serveWrite (by simp) fun q a v t k => req_modStream_same rfl k)
  | noticeTargetWrite => exact wholeTo_next (req_serveWrite (by simp) req_carryNoticeTarget)
  | mapTableWrite => exact wholeTo_next (req_serveWrite (by simp) req_carryMapTable)
  | channelSettingsWrite => exact wholeTo_next (req_serveWrite (by simp) fun q a v t k => req_modChan k)
  | rowsPerBankWrite => exact wholeTo_next (req_serveWrite (by simp) fun q a v t k => req_modChan k)
  | urgencyThresholdWrite => exact wholeTo_next (req_serveWrite (by simp) req_carryUrgencyThreshold)
  | trimSettingsWrite => exact wholeTo_next (req_serveWrite (by simp) req_carryTrimSetting)
  | noticeEnableWrite => exact wholeTo_next (req_serveWrite (by simp) fun q a v t k => req_same k)
  | temperatureReport => exact wholeTo_next (req_serveWrite (by simp) fun q a v t k => req_takeReport t _ k)
  | init =>
    exact wholeTo_next (req_serveCommand (by simp) fun q ch _ t => req_channelCommand fun c h =>
      req_longAccepted .init h fun _ => {})
  | hold =>
    exact wholeTo_next (req_serveCommand (by simp) fun q ch _ t => req_channelCommand fun c h =>
      req_longAccepted .hold h fun x => sameChannel_beginDrain x _ _)
  | resume =>
    exact wholeTo_next (req_serveCommand (by simp) fun q ch _ t => req_channelCommand fun c h => req_acceptResume q h)
  | retain =>
    exact wholeTo_next (req_serveCommand (by simp) fun q ch _ t => req_channelCommand fun c h =>
      req_longAccepted .retain h fun x => sameChannel_beginDrain x _ _)
  | wake =>
    exact wholeTo_next (req_serveCommand (by simp) fun q ch _ t => req_channelCommand fun c h => req_acceptWake q h)
  | trimLong =>
    exact wholeTo_next (req_serveCommand (by simp) fun q ch _ t => req_channelCommand fun c h =>
      req_longAccepted .trimLong h fun x => sameChannel_requestLongTrim x _)
  | commitMap => exact whole_commitMap s
  | copyLiveToShadow =>
    exact wholeTo_next (req_serveCommand (by simp) fun q _ _ t =>
      (req_modMap (f := MapUnit.copyLive) ⟨rfl, rfl, rfl⟩ _).trans (req_answer _ q rfl))
  | clearFault =>
    exact wholeTo_next (req_serveCommand (by simp) fun q _ _ t =>
      ReqKept.trans (t := t.modMgmt fun m => { m with fault := none }) (req_same _) (req_answer _ q rfl))
  | clearCounters => exact whole_clearCounters s
  | functionReset => exact whole_functionReset s
  | openRow c => exact whole_openRow c s
  | closeBank c => exact whole_closeBank c s
  | readColumnCommand c cs => exact whole_readColumn c cs s
  | writeColumnCommand c => exact whole_writeColumn c s
  | refresh c => exact whole_refresh c s
  | shortTrim c => exact whole_shortTrim c s
  | longTrim c => exact whole_longTrim c s
  | settingsWriteStep c => exact whole_settingsWriteStep c s
  | retentionEntryStep c => exact whole_retentionEntry c s
  | openToAccessExpiry c b =>
    exact wholeTo_ite fun _ => req_modChan _ (SameChannel.trans {} (sameChannel_startRowHold _ s.now b))
  | closeTimeExpiry c b => exact whole_settled {}
  | openMinExpiry c b => exact wholeTo_next (whole_bankExpiry s c b _ _)
  | openCycleExpiry c b => exact wholeTo_next (whole_bankExpiry s c b _ _)
  | writeRecoveryExpiry c b => exact wholeTo_next (whole_bankExpiry s c b _ _)
  | rowHoldExpiry c b => exact wholeTo_next (whole_bankExpiry s c b _ _)
  | writeBurstEnd c => exact whole_writeBurstEnd c s
  | readCompletion c => exact whole_readCompletion c s
  | readBurstEnd c => exact whole_readBurstEnd c s
  | columnSpacingExpiry c => exact wholeTo_next (whole_chanExpiry fun _ => {})
  | writeToReadExpiry c => exact wholeTo_next (whole_chanExpiry fun _ => {})
  | readToWriteExpiry c => exact wholeTo_next (whole_chanExpiry fun _ => {})
  | openSpacingExpiry c => exact wholeTo_next (whole_chanExpiry fun _ => {})
  | windowEntryExpiry c => exact wholeTo_next (req_modChan _)
  | refreshIntervalExpiry c => exact whole_refreshInterval c s
  | refreshCompletion c => exact whole_settled {}
  | trimTimerExpiry c => exact whole_settled (sameChannel_shortTrimFallsDue _ _ _)
  | graceTimerExpiry c => exact wholeTo_next (whole_chanExpiry fun _ => {})
  | shortTrimCompletion c => exact whole_settled (sameChannel_shortTrimCompletes _ _)
  | longTrimCompletion c => exact whole_longTrimCompletion c s
  | staleTimerExpiry => exact whole_staleTimer s
  | idleTimerExpiry c => exact wholeTo_ite fun _ => req_modChan _ (sameChannel_enterDoze _)
  | dozeExitExpiry c => exact whole_settled {}
  | powerupWaitExpiry c => exact wholeTo_next (whole_chanExpiry fun _ => {})
  | settingsWriteCompletion c => exact whole_settingsWriteCompletion c s
  | retainExitShortExpiry c => exact whole_retainExitShort c s
  | retainExitLongExpiry c => exact whole_retainExitLong c s
  | helloSend => exact wholeTo_ite fun _ => whole_modLink s _
  | nakSend => exact whole_nakSend s
  | ackSend => exact whole_ackSend s
  | creditSend => exact wholeTo_ite fun _ => whole_modLink s _
  | retransmission => exact whole_retransmission s
  | responseSend => exact whole_responseSend s
  | noticeSend => exact whole_noticeSend s
  | replayTimerExpiry => exact wholeTo_ite fun _ => whole_callReplay s _
  | unknownCommandCode => exact wholeTo_next (req_serveCommand (by simp) fun q _ _ t => req_answer _ q rfl)

/-! ### Every step -/

theorem whole_coldReset (s : State) : WholeTo s (exec .coldReset s) := by
  rw [exec_coldReset_eq]
  exact wholeTo_next {
    tag := fun _ => atReset_tag _ _ _
    slot := fun _ => atReset_slot _ _ _
    owed := fun _ _ => (owedLaw_iff _).1 (atReset_owed _ _ _)
    stamp := fun _ _ _ _ _ => (epochLaw_iff _).1 (atReset_epoch _ _ _) }

theorem whole_tick (s : State) : Whole s s.tick := by
  unfold State.tick
  split
  · exact ReqKept.refl _ s
  · exact req_same _

theorem whole_step {s t : State} (h : step s = .next t) : Whole s t := by
  unfold step at h
  split at h
  · cases h
    exact whole_tick s
  · next i rest _ =>
    have hqueue : Whole s { s with pending := rest } := req_same _
    by_cases hi : i = .coldReset
    · subst hi
      exact hqueue.trans (whole_coldReset _ t h)
    · exact hqueue.trans (whole_exec _ hi t h)

/-- Settles O8: a read's slot is RESERVED while it stands in a pool, waits while it is issued, is FILLED while its READ_DATA
is ready, and is named nowhere else. -/
theorem slotLawKept : Obligations.SlotLawKept := fun _ _ h hstep => (whole_step hstep).slot h

/-- Settles O9: each part of a step moves a request from one place to another, and each response sent ends one. -/
theorem owedLawKept : Obligations.OwedLawKept := by
  rintro s t ⟨hslot, howed⟩ hstep
  have hkept := whole_step hstep
  exact ⟨hkept.slot hslot, (owedLaw_iff t).2 (hkept.owed hslot ((owedLaw_iff s).1 howed))⟩

/-- Settles O10: each stamp is counted once, from the acceptance of its request to its retirement. -/
theorem epochLawKept : Obligations.EpochLawKept := by
  rintro s t ⟨htag, hslot, howed, hepoch⟩ hstep
  have hkept := whole_step hstep
  obtain ⟨hcounted, hlinked⟩ := (epochLaw_iff s).1 hepoch
  have howed' := (owedLaw_iff s).1 howed
  exact ⟨hkept.tag htag, hkept.slot hslot, (owedLaw_iff t).2 (hkept.owed hslot howed'),
    (epochLaw_iff t).2 (hkept.stamp htag hslot howed' hcounted hlinked)⟩

end Sys2Proof.Proofs
end
